-- ==== Sys2Proof/Word.lean ====
section
/-! DEFINITION. The words the block moves: 32-bit port words (rule R80), 16-bit samples (rule R14), bytes (rule R55). -/

namespace Sys2Proof

/-- A 32-bit port word: a header, a response, a status word or an opaque statistic (rules R70, R80, D5). -/
abbrev Word := BitVec 32

/-- A sample: a signed 16-bit two's-complement integer, only ever moved, copied or zero-filled (rule R14). -/
abbrev Sample := BitVec 16

/-- A byte of a packed coded frame (rule R150) or of a byte-wide channel (rules R53, R54). -/
abbrev Byte := BitVec 8

end Sys2Proof
end

