-- ==== Sys2Proof/Config.lean ====
section
/-! DEFINITION. The configuration record of rule R9: the synthesis-time constants of one block instance. -/

namespace Sys2Proof

/-- The configuration record (rule R9).
Every parameter is a constant of one block instance, so a machine state carries the record and no step writes it.
The constraints on the values are the checks K1 to K9 that CREATE makes (rule R205). They are not part of the type,
because CREATE has to be able to find them broken. -/
structure Config where
  /-- `B`: bits per half-frame. -/
  b : Nat
  /-- `NBYTES`: the decoder's packed input size in bytes. -/
  nbytes : Nat
  /-- `FRAME_OUT`: decoded samples per decoder call. -/
  frameOut : Nat
  /-- `N_NOM`: the nominal demodulator request, and the size of a silence block. -/
  nNom : Nat
  /-- `NIN_MIN`: the smallest request count. -/
  ninMin : Nat
  /-- `NIN_MAX`: the largest request count. -/
  ninMax : Nat
  /-- `N_PUSH`: samples per PUSH. -/
  nPush : Nat
  /-- `N_DRAIN`: samples per output block. -/
  nDrain : Nat
  /-- `IN_CAP`: capacity of the input buffer in samples. -/
  inCap : Nat
  /-- `OUT_CAP`: capacity of the output buffer in samples. -/
  outCap : Nat
  /-- `N_SYM`: symbols in the constellation snapshot. -/
  nSym : Nat
  /-- `SNR_THR`: the lock threshold, signed Q8.8 dB, any 16-bit value. Its default is 3.0 dB. -/
  snrThr : BitVec 16 := 0x0300#16
  /-- `STATUS_BASE`: where a platform places the status space (rule R52, decision D9, left OPEN by the spec).
  The block uses only the 8-bit offset, so no operation reads it. -/
  statusBase : Nat := 0
  deriving DecidableEq, Repr

/-- The bits of one coded frame: two half-frames (rule R18). -/
abbrev Config.frameBits (c : Config) : Nat := 2 * c.b

/-- `REF-SMALL`, the spec's worked configuration (rule R11). -/
def refSmall : Config where
  b := 4
  nbytes := 1
  frameOut := 8
  nNom := 4
  ninMin := 3
  ninMax := 5
  nPush := 4
  nDrain := 4
  inCap := 10
  outCap := 16
  nSym := 2
  snrThr := 0x0300#16

/-- `FREEDV-1400`, the plausible instantiation that rule R11 lists from general knowledge. No rule depends on it. -/
def freedv1400 : Config where
  b := 28
  nbytes := 7
  frameOut := 320
  nNom := 160
  ninMin := 120
  ninMax := 200
  nPush := 160
  nDrain := 160
  inCap := 400
  outCap := 640
  nSym := 15

end Sys2Proof
end

