-- ==== Sys2Proof/Syntax.lean ====
section
/-! DEFINITION. The transactions of the block's ports: one constructor of `Instr` per row of the opcode table,
the ports they cross, and the packets they are carried in. -/

namespace Sys2Proof

/-- The ports of the block (rules R70, R83 and R272).
The same header word means different things on different ports (0x01000000 is CREATE on the command port and
READ_SNAPSHOT on the status port), so a word is decoded together with its port. -/
inductive Port where
  /-- The host command port: CREATE and PUSH (rule R71). -/
  | command
  /-- The read-only status port (rule R80). -/
  | status
  /-- The demodulator adapter's port (rule R83). -/
  | demod
  /-- The decoder adapter's port (rule R83). -/
  | decoder
  deriving DecidableEq, Repr

/-- One transaction as it crosses a port: a 32-bit header and its payload (rules R70 and R74).
A payload is carried in 16-bit sample words or in 32-bit words, as the header's format says. -/
structure Packet where
  header : Word
  words : List Word := []
  samples : List Sample := []
  deriving DecidableEq, Repr

/-- What a port can carry: one constructor per row of the opcode table. -/
inductive Instr where
  /-- CREATE, a host command without operands (rule R202). -/
  | create
  /-- PUSH, a host command with `N_PUSH` samples, oldest first (rules R73 and R210). -/
  | push (samples : List Sample)
  /-- READ SESS (rule R231). -/
  | readSess
  /-- READ SYNC (rule R232). -/
  | readSync
  /-- READ FSM (rule R233). -/
  | readFsm
  /-- READ SEQ (rule R234). -/
  | readSeq
  /-- READ LOCK (rule R235). -/
  | readLock
  /-- READ SNR (rule R236). -/
  | readSnr
  /-- READ TOFF (rule R237). -/
  | readToff
  /-- READ FOFF (rule R238). -/
  | readFoff
  /-- READ CLKOFF (rule R239). -/
  | readClkoff
  /-- READ NSYM (rule R241). -/
  | readNsym
  /-- READ SYM[i] (rule R240). -/
  | readSym (i : Nat)
  /-- A READ_WORD of a reserved address (rules R82 and R241). -/
  | readReserved (addr : BitVec 8)
  /-- READ_SNAPSHOT (rule R242). -/
  | readSnapshot
  /-- DEMOD_INIT, a request of the block to the demodulator adapter (rules R85 and R206). -/
  | demodInit
  /-- DEMOD_REQ with its count field and its samples, oldest first (rules R85 and R173). -/
  | demodReq (r : BitVec 16) (samples : List Sample)
  /-- DEC_INIT, a request of the block to the decoder adapter (rules R85 and R207). -/
  | decInit
  /-- DEC_REPAIR with the `2*B` bits of the pending frame (rules R85 and R146). -/
  | decRepair (bits : List Bool)
  /-- DEC_DECODE with the `NBYTES` bytes of the packed frame (rules R85 and R147). -/
  | decDecode (bytes : List Byte)
  deriving DecidableEq, Repr

/-- The port a transaction crosses (rules R72, R80 and R83). -/
def Instr.port : Instr → Port
  | .create => .command
  | .push _ => .command
  | .readSess => .status
  | .readSync => .status
  | .readFsm => .status
  | .readSeq => .status
  | .readLock => .status
  | .readSnr => .status
  | .readToff => .status
  | .readFoff => .status
  | .readClkoff => .status
  | .readNsym => .status
  | .readSym _ => .status
  | .readReserved _ => .status
  | .readSnapshot => .status
  | .demodInit => .demod
  | .demodReq _ _ => .demod
  | .decInit => .decoder
  | .decRepair _ => .decoder
  | .decDecode _ => .decoder

end Sys2Proof
end

