-- ==== Sys2Proof/WellFormed.lean ====
section
/-! DEFINITION. When a transaction is one the encoding can carry, in a given configuration. -/

namespace Sys2Proof

/-- The address of a status register that no rule names: 0x0A..0x0F, or past the last symbol (rules R81 and R82). -/
def reservedAddr (c : Config) (addr : BitVec 8) : Bool :=
  (10 ≤ addr.toNat && addr.toNat ≤ 15) || 16 + c.nSym ≤ addr.toNat

/-- A transaction whose operands meet the conditions its encoding puts on them:
the payload lengths of rules R73 and R85, and the address ranges of rule R81. -/
def Instr.wellFormed (c : Config) : Instr → Bool
  | .push samples => samples.length == c.nPush
  | .readSym i => i < c.nSym && i < 240
  | .readReserved addr => reservedAddr c addr
  | .demodReq r samples => samples.length == r.toNat
  | .decRepair bits => bits.length == c.frameBits
  | .decDecode bytes => bytes.length == c.nbytes
  | .create => true
  | .readSess => true
  | .readSync => true
  | .readFsm => true
  | .readSeq => true
  | .readLock => true
  | .readSnr => true
  | .readToff => true
  | .readFoff => true
  | .readClkoff => true
  | .readNsym => true
  | .readSnapshot => true
  | .demodInit => true
  | .decInit => true

/-- `Instr.wellFormed` as a proposition. -/
abbrev Instr.WellFormed (c : Config) (i : Instr) : Prop := i.wellFormed c = true

end Sys2Proof
end

