-- ==== Sys2Proof/Decode.lean ====
section
/-! DEFINITION. Decoding and encoding of every transaction, by the layouts of rules R71 to R75, R80, R84 and R85:
the transport of bit vectors and bytes in words, the packet decoder of each port (total, rejecting by name),
the encoder, and the byte-wide channel of rules R53 and R54. -/

namespace Sys2Proof

/-! ### Fields of a header (rules R12, R71, R80, R85) -/

/-- Bits `[31:24]`: `OPC`, `SOP` or `AOP`. -/
def opField (w : Word) : BitVec 8 := w.extractLsb' 24 8

/-- Bits `[23:0]`, the `MBZ` field of a command and of most adapter requests. -/
def low24 (w : Word) : BitVec 24 := w.extractLsb' 0 24

/-- Bits `[23:8]`, the `MBZ` field of a status request. -/
def statusMbz (w : Word) : BitVec 16 := w.extractLsb' 8 16

/-- Bits `[7:0]`, the `ADDR` field of a status request. -/
def statusAddr (w : Word) : BitVec 8 := w.extractLsb' 0 8

/-- Bits `[23:16]` of a DEMOD_REQ header, which are zero. -/
def demodMbz (w : Word) : BitVec 8 := w.extractLsb' 16 8

/-- Bits `[15:0]` of a DEMOD_REQ header: the count `r`. -/
def demodCount (w : Word) : BitVec 16 := w.extractLsb' 0 16

/-! ### Transport of bit vectors and bytes in 32-bit words (rules R84 and R85) -/

/-- The number of words that carry `n` bits: `ceil(n/32)` (rule R84). -/
def bitWordCount (n : Nat) : Nat := (n + 31) / 32

/-- The number whose bit `j` is the `j`-th element of a list of bits. -/
def natOfBits : List Bool → Nat
  | [] => 0
  | b :: bs => b.toNat + 2 * natOfBits bs

/-- The words that carry a bit vector: bit `j` is bit `j mod 32` of word `j / 32`, unused high bits are 0 (rule R84). -/
def bitsToWords (bits : List Bool) : List Word :=
  (List.range (bitWordCount bits.length)).map fun k =>
    BitVec.ofNat 32 (natOfBits ((bits.drop (32 * k)).take 32))

/-- The first `n` bits that a list of words carries (rule R84). -/
def wordsToBits (n : Nat) (ws : List Word) : List Bool :=
  (List.range n).map fun j => (ws.getD (j / 32) 0#32).getLsbD (j % 32)

/-- The number of words that carry `n` bytes, four to a word (rule R85). -/
def byteWordCount (n : Nat) : Nat := (n + 3) / 4

/-- The 32-bit word of four bytes, the least significant first (rules R54 and R85). -/
def wordOfBytes (b0 b1 b2 b3 : Byte) : Word := b3 ++ b2 ++ b1 ++ b0

/-- The words that carry a byte sequence: byte `k` is in bits `[8*(k mod 4)+7 : 8*(k mod 4)]` of word `k / 4`
(rule R85). -/
def bytesToWords (bytes : List Byte) : List Word :=
  (List.range (byteWordCount bytes.length)).map fun k =>
    wordOfBytes (bytes.getD (4 * k) 0#8) (bytes.getD (4 * k + 1) 0#8) (bytes.getD (4 * k + 2) 0#8)
      (bytes.getD (4 * k + 3) 0#8)

/-- The first `n` bytes that a list of words carries (rule R85). -/
def wordsToBytes (n : Nat) (ws : List Word) : List Byte :=
  (List.range n).map fun k => (ws.getD (k / 4) 0#32).extractLsb' (8 * (k % 4)) 8

/-! ### Decoding a packet -/

/-- Why a packet or a byte string is no transaction of its port. -/
inductive DecodeError where
  /-- The opcode of a header names nothing on its port (rules R75, R80, R85). -/
  | reservedOpcode
  /-- A must-be-zero field is not zero (rules R75, R80, R85). -/
  | nonzeroMbz
  /-- The payload's length is not the one the header demands (rules R74 and R85). -/
  | payloadLength
  /-- READ_SNAPSHOT with a nonzero `ADDR` (rule R80). -/
  | snapshotAddress
  /-- A payload word has a nonzero bit past the vector it carries (rule R84). -/
  | nonzeroPadding
  /-- A byte string ends inside a word (rules R53 and R54). -/
  | truncated
  deriving DecidableEq, Repr

/-- Decode a host command (rules R71 to R75 and R201). -/
def decodeCommand (c : Config) (m : Packet) : Except DecodeError Instr :=
  if opField m.header = 0x01#8 then
    if low24 m.header ≠ 0#24 then .error .nonzeroMbz
    else if m.words ≠ [] ∨ m.samples ≠ [] then .error .payloadLength
    else .ok .create
  else if opField m.header = 0x02#8 then
    if low24 m.header ≠ 0#24 then .error .nonzeroMbz
    else if m.words ≠ [] ∨ m.samples.length ≠ c.nPush then .error .payloadLength
    else .ok (.push m.samples)
  else .error .reservedOpcode

/-- The register that a READ_WORD address selects (rule R81). -/
def readWordAt (c : Config) (addr : BitVec 8) : Instr :=
  match addr.toNat with
  | 0 => .readSess
  | 1 => .readSync
  | 2 => .readFsm
  | 3 => .readSeq
  | 4 => .readLock
  | 5 => .readSnr
  | 6 => .readToff
  | 7 => .readFoff
  | 8 => .readClkoff
  | 9 => .readNsym
  | n => if 16 ≤ n ∧ n < 16 + c.nSym then .readSym (n - 16) else .readReserved addr

/-- Decode a status request (rules R80 and R81). A packet with a payload is rejected by name. DESIGN CHOICE (log
entry 15): rule R80 does not speak of one, and the status port of the machine holds single words. -/
def decodeStatus (c : Config) (m : Packet) : Except DecodeError Instr :=
  if m.words ≠ [] ∨ m.samples ≠ [] then .error .payloadLength
  else if opField m.header = 0x00#8 then
    if statusMbz m.header ≠ 0#16 then .error .nonzeroMbz
    else .ok (readWordAt c (statusAddr m.header))
  else if opField m.header = 0x01#8 then
    if statusMbz m.header ≠ 0#16 then .error .nonzeroMbz
    else if statusAddr m.header ≠ 0#8 then .error .snapshotAddress
    else .ok .readSnapshot
  else .error .reservedOpcode

/-- Decode a request on the demodulator port, as its adapter reads it (rule R85). -/
def decodeDemod (m : Packet) : Except DecodeError Instr :=
  if opField m.header = 0x10#8 then
    if low24 m.header ≠ 0#24 then .error .nonzeroMbz
    else if m.words ≠ [] ∨ m.samples ≠ [] then .error .payloadLength
    else .ok .demodInit
  else if opField m.header = 0x11#8 then
    if demodMbz m.header ≠ 0#8 then .error .nonzeroMbz
    else if m.words ≠ [] ∨ m.samples.length ≠ (demodCount m.header).toNat then .error .payloadLength
    else .ok (.demodReq (demodCount m.header) m.samples)
  else .error .reservedOpcode

/-- Decode a request on the decoder port, as its adapter reads it (rules R84 and R85). -/
def decodeDecoder (c : Config) (m : Packet) : Except DecodeError Instr :=
  if opField m.header = 0x20#8 then
    if low24 m.header ≠ 0#24 then .error .nonzeroMbz
    else if m.words ≠ [] ∨ m.samples ≠ [] then .error .payloadLength
    else .ok .decInit
  else if opField m.header = 0x21#8 then
    if low24 m.header ≠ 0#24 then .error .nonzeroMbz
    else if m.words.length ≠ bitWordCount c.frameBits ∨ m.samples ≠ [] then .error .payloadLength
    else if bitsToWords (wordsToBits c.frameBits m.words) ≠ m.words then .error .nonzeroPadding
    else .ok (.decRepair (wordsToBits c.frameBits m.words))
  else if opField m.header = 0x22#8 then
    if low24 m.header ≠ 0#24 then .error .nonzeroMbz
    else if m.words.length ≠ byteWordCount c.nbytes ∨ m.samples ≠ [] then .error .payloadLength
    else if bytesToWords (wordsToBytes c.nbytes m.words) ≠ m.words then .error .nonzeroPadding
    else .ok (.decDecode (wordsToBytes c.nbytes m.words))
  else .error .reservedOpcode

/-- Decode what stands at a port. Total: every packet is a transaction or is rejected by name. -/
def decode (p : Port) (c : Config) (m : Packet) : Except DecodeError Instr :=
  match p with
  | .command => decodeCommand c m
  | .status => decodeStatus c m
  | .demod => decodeDemod m
  | .decoder => decodeDecoder c m

/-! ### Encoding -/

/-- A header whose fields below the opcode are zero. -/
def opHeader (op : BitVec 8) : Word := op ++ 0#24

/-- A READ_WORD header: `0x000000aa` (rule R80). -/
def readHeader (addr : BitVec 8) : Word := 0#24 ++ addr

/-- The packet that carries a transaction (rules R72, R80, R81, R84 and R85). -/
def encode : Instr → Packet
  | .create => { header := opHeader 0x01#8 }
  | .push samples => { header := opHeader 0x02#8, samples := samples }
  | .readSess => { header := readHeader 0x00#8 }
  | .readSync => { header := readHeader 0x01#8 }
  | .readFsm => { header := readHeader 0x02#8 }
  | .readSeq => { header := readHeader 0x03#8 }
  | .readLock => { header := readHeader 0x04#8 }
  | .readSnr => { header := readHeader 0x05#8 }
  | .readToff => { header := readHeader 0x06#8 }
  | .readFoff => { header := readHeader 0x07#8 }
  | .readClkoff => { header := readHeader 0x08#8 }
  | .readNsym => { header := readHeader 0x09#8 }
  | .readSym i => { header := readHeader (BitVec.ofNat 8 (16 + i)) }
  | .readReserved addr => { header := readHeader addr }
  | .readSnapshot => { header := opHeader 0x01#8 }
  | .demodInit => { header := opHeader 0x10#8 }
  | .demodReq r samples => { header := 0x11#8 ++ 0#8 ++ r, samples := samples }
  | .decInit => { header := opHeader 0x20#8 }
  | .decRepair bits => { header := opHeader 0x21#8, words := bitsToWords bits }
  | .decDecode bytes => { header := opHeader 0x22#8, words := bytesToWords bytes }

/-! ### The byte-wide channel (rules R53 and R54): least significant byte first -/

/-- The four bytes of a word, the least significant first (rule R54). -/
def wordBytes (w : Word) : List Byte :=
  [w.extractLsb' 0 8, w.extractLsb' 8 8, w.extractLsb' 16 8, w.extractLsb' 24 8]

/-- The two bytes of a sample, the least significant first (rule R53). -/
def sampleBytes (x : Sample) : List Byte := [x.extractLsb' 0 8, x.extractLsb' 8 8]

/-- The samples of a byte string, or nothing when it ends inside one (rule R53). -/
def samplesOfBytes : List Byte → Option (List Sample)
  | [] => some []
  | [_] => none
  | lo :: hi :: rest => (samplesOfBytes rest).map (fun xs => (hi ++ lo) :: xs)

/-- The words of a byte string, or nothing when it ends inside one (rule R54). -/
def wordsOfBytes : List Byte → Option (List Word)
  | b0 :: b1 :: b2 :: b3 :: rest => (wordsOfBytes rest).map (fun ws => wordOfBytes b0 b1 b2 b3 :: ws)
  | [] => some []
  | [_] => none
  | [_, _] => none
  | [_, _, _] => none

/-- A sequence of words as bytes, word 0 first (rule R54). -/
def wordBlockBytes (ws : List Word) : List Byte := ws.flatMap wordBytes

/-- A sample block as bytes, the oldest sample first (rule R53). -/
def sampleBlockBytes (xs : List Sample) : List Byte := xs.flatMap sampleBytes

/-- Whether the payload behind a header is carried in samples (PUSH, DEMOD_REQ) rather than in words (rules R70, R85). -/
def carriesSamples (p : Port) (header : Word) : Bool :=
  match p with
  | .command => true
  | .status => false
  | .demod => opField header == 0x11#8
  | .decoder => false

/-- A packet as the bytes of a byte-wide channel: header, words, samples (rules R53 and R54). -/
def Packet.toBytes (m : Packet) : List Byte :=
  wordBytes m.header ++ wordBlockBytes m.words ++ sampleBlockBytes m.samples

/-- The packet that a byte string carries over a port. -/
def packetOfBytes (p : Port) : List Byte → Except DecodeError Packet
  | b0 :: b1 :: b2 :: b3 :: rest =>
    if carriesSamples p (wordOfBytes b0 b1 b2 b3) then
      match samplesOfBytes rest with
      | some xs => .ok { header := wordOfBytes b0 b1 b2 b3, samples := xs }
      | none => .error .truncated
    else
      match wordsOfBytes rest with
      | some ws => .ok { header := wordOfBytes b0 b1 b2 b3, words := ws }
      | none => .error .truncated
  | _ => .error .truncated

/-- Decode the bytes that stand at a port. Total on any bytes. -/
def decodeBytes (p : Port) (c : Config) (bytes : List Byte) : Except DecodeError Instr :=
  match packetOfBytes p bytes with
  | .ok m => decode p c m
  | .error e => .error e

/-! ### A word of the opcode table -/

/-- The port that a bare header word of the opcode table is read on.
The table's rows do not name their port in the word: `0x01000000` is both CREATE (command port) and READ_SNAPSHOT
(status port), and this function reads it as CREATE, the earlier row. DESIGN CHOICE (log entry 3). -/
def tablePort (header : Word) : Port :=
  if opField header = 0x01#8 ∨ opField header = 0x02#8 then .command
  else if opField header = 0x10#8 ∨ opField header = 0x11#8 then .demod
  else if opField header = 0x20#8 ∨ opField header = 0x21#8 ∨ opField header = 0x22#8 then .decoder
  else .status

/-- How many payload bytes stand behind a header of the opcode table (rules R74 and R85). -/
def tablePayloadBytes (c : Config) (header : Word) : Nat :=
  if opField header = 0x02#8 then 2 * c.nPush
  else if opField header = 0x11#8 then 2 * (demodCount header).toNat
  else if opField header = 0x21#8 then 4 * bitWordCount c.frameBits
  else if opField header = 0x22#8 then 4 * byteWordCount c.nbytes
  else 0

/-- The header word of a table row: the low `nbits` bits of `w`, every higher bit 0. -/
def tableHeader (nbits w : Nat) : Word := BitVec.ofNat 32 (w % 2 ^ nbits)

/-- The bytes of a table row's word as the byte-wide channel carries them, with a payload of zeros. -/
def tableBytes (c : Config) (nbits w : Nat) : List Byte :=
  wordBytes (tableHeader nbits w) ++ List.replicate (tablePayloadBytes c (tableHeader nbits w)) 0#8

/-- The instruction the decoder reads from a word of the opcode table, in the configuration of the reset state. -/
def decodeTableWord (nbits w : Nat) : Option Instr :=
  match decodeBytes (tablePort (tableHeader nbits w)) refSmall (tableBytes refSmall nbits w) with
  | .ok i => some i
  | .error _ => none

end Sys2Proof
end

