-- ==== Sys2Proof/Machine/State.lean ====
section
/-! DEFINITION. The state of the block (rules R20 to R35), the ports through which the outside world reaches it,
and the state after power-on reset (rule R290). -/

namespace Sys2Proof.Machine

/-- Why a step stops with a fault. The spec gives the block no fault of this kind: its own fatal path,
InternalFault (rule R262), is a response to the host and therefore a next state. -/
inductive Fault where
  /-- Raised by `step` when the sequencer stands inside a command and the command port holds no command.
  The spec gives the block no such state (rules R33 and R200), and no step leads there. Safe: the model stops where
  the spec says nothing. -/
  | commandLost
  deriving DecidableEq, Repr

/-- Why a step has no meaning. -/
inductive Refusal where
  /-- An instruction of the opcode table that has no meaning in this model yet. Raised by an arm of `exec`. Safe. -/
  | notModelled (mnemonic : String)
  /-- Raised by an adapter request whose response has the wrong length. The spec places such a response outside the
  model and gives it no meaning (rule R306 and 93_implementation_defined.md U3). Safe. -/
  | malformedAdapterResponse
  deriving DecidableEq, Repr

/-- `sess`, the session state (rules R22 and R92). -/
inductive Sess where
  /-- No CREATE has run since power-on. -/
  | none
  /-- The last CREATE succeeded and no InternalFault has occurred since. -/
  | ready
  /-- The last CREATE failed, or an InternalFault occurred. -/
  | failed
  deriving DecidableEq, Repr

/-- `fsm`, the frame synchronisation state (rules R19, R23 and R91). -/
inductive Fsm where
  | unsynced
  | waitFirstHalf
  | waitSecondHalf
  deriving DecidableEq, Repr

/-- A sample buffer as the ring of rule R110: storage `M[0..CAP)`, head index `h` and occupancy `occ`.
The two heads are the registers `in_head` and `out_head` (rule R34), the two occupancies `in_occ` and `out_occ`. -/
structure Ring where
  mem : List Sample
  head : Nat
  occ : Nat
  deriving DecidableEq, Repr

/-- `SNAP`, the published statistics snapshot (rule R29). -/
structure Snapshot where
  lock : Bool
  snr : BitVec 16
  toff : Word
  foff : Word
  clkoff : Word
  sym : List Word
  fsmPub : Fsm
  seq : Word
  deriving DecidableEq, Repr

/-- A demodulator response `d`, field by field (rules R15 and R86). -/
structure DemodRsp where
  valid : Bool
  sync : Bool
  lock : Bool
  nextR : BitVec 16
  snr : BitVec 16
  toff : Word
  foff : Word
  clkoff : Word
  sym : List Word
  bits : List Bool
  deriving DecidableEq, Repr

/-- A response to a host command: the response word and its sample payload (rules R70 and R76). -/
structure Response where
  word : Word
  payload : List Sample := []
  deriving DecidableEq, Repr

/-- An adapter's response as it crosses the port: 32-bit words, then samples (rules R86 to R89). -/
structure Reply where
  words : List Word
  samples : List Sample := []
  deriving DecidableEq, Repr

/-- `phase`, the sequencer's position within a command (rule R33).
A phase carries the pseudocode's locals that are alive in it: the iteration's demodulator response `d`
(rule R172), and the response about to be delivered. -/
inductive Phase where
  | idle
  | cReset
  | cCheck
  | cDemodInit
  | cDecInit
  | pAccept
  | pAppend
  | pLoopTest
  | pDemodWait
  | pConsume (d : DemodRsp)
  | pFsm (d : DemodRsp)
  | pRepairWait (d : DemodRsp)
  | pDecodeWait (d : DemodRsp)
  | pPublish (d : DemodRsp)
  | pDrain
  | respond (rsp : Response)
  deriving DecidableEq, Repr

/-- Who makes the next move: the block's sequencer, or a status reader (rules R230 and R272). -/
inductive Agent where
  | sequencer
  | reader
  deriving DecidableEq, Repr

/-- The state of one block instance (rule R38) and of the ports around it.
The fields from `sess` to `phase` are the elements of rule R20. `cfg` is the configuration record of rule R9, constant
for the instance. The remaining fields are the model's own: what stands at the ports, in the order it arrived or left,
and the order in which the agents move. They are inputs and outputs, not storage of the block (rule R35). -/
structure State where
  /-- The configuration record (rule R9). No step writes it. -/
  cfg : Config
  /-- `sess` (rule R22). -/
  sess : Sess
  /-- `fsm` (rule R23). -/
  fsm : Fsm
  /-- `r`, the request count (rule R24). -/
  r : Nat
  /-- `IN`, with `in_occ` and `in_head` (rules R25, R34 and R110). -/
  inBuf : Ring
  /-- `OUT`, with `out_occ` and `out_head` (rules R26, R34 and R110). -/
  outBuf : Ring
  /-- `PEND`, the `2*B` bits of the pending coded frame (rule R27). -/
  pend : List Bool
  /-- `SNAP` (rule R29). -/
  snap : Snapshot
  /-- `cmd_flags` (rules R32 and R78). -/
  cmdFlags : BitVec 8
  /-- `iter_cnt` (rules R32 and R178). -/
  iterCnt : BitVec 8
  /-- `dec_cnt` (rules R32 and R154). -/
  decCnt : BitVec 8
  /-- `phase` (rule R33). -/
  phase : Phase
  /-- An adapter request is outstanding: issued, its response not yet taken (rules R63 and R305). -/
  awaiting : Bool
  /-- The command port: the command in progress, if any, and the commands waiting behind it (rule R200). -/
  cmdIn : List Packet
  /-- The responses delivered to the host, oldest first. -/
  hostOut : List Response
  /-- The status port: request words not yet served, oldest first (rule R230). -/
  statusIn : List Word
  /-- The status responses delivered, oldest first. -/
  statusOut : List (List Word)
  /-- Every request the block has issued on its two adapter ports, oldest first (rule R63). -/
  adapterOut : List Packet
  /-- The answers the demodulator adapter will give, oldest first: the oracle of rule R15. -/
  demodIn : List Reply
  /-- The answers the decoder adapter will give, oldest first: the oracle of rule R15. -/
  decIn : List Reply
  /-- Which agent makes each of the next moves. When it is empty a waiting status request goes first. -/
  schedule : List Agent
  deriving DecidableEq, Repr

/-- A buffer with no sample held, its head at 0.
The spec leaves the storage outside the occupied part unspecified (rule R290) and no operation of a run reads it.
DESIGN CHOICE (log entry 2): the storage holds zeros. -/
def Ring.empty (cap : Nat) : Ring := { mem := List.replicate cap 0#16, head := 0, occ := 0 }

/-- The snapshot with every field 0 (rules R203 and R290). -/
def Snapshot.zero (c : Config) : Snapshot where
  lock := false
  snr := 0#16
  toff := 0#32
  foff := 0#32
  clkoff := 0#32
  sym := List.replicate c.nSym 0#32
  fsmPub := .unsynced
  seq := 0#32

/-- The state after power-on reset of an instance with configuration `c` (rules R20 and R290).
Nothing stands at any port. -/
def State.resetWith (c : Config) : State where
  cfg := c
  sess := .none
  fsm := .unsynced
  r := c.nNom
  inBuf := Ring.empty c.inCap
  outBuf := Ring.empty c.outCap
  pend := List.replicate c.frameBits false
  snap := Snapshot.zero c
  cmdFlags := 0#8
  iterCnt := 0#8
  decCnt := 0#8
  phase := .idle
  awaiting := false
  cmdIn := []
  hostOut := []
  statusIn := []
  statusOut := []
  adapterOut := []
  demodIn := []
  decIn := []
  schedule := []

/-- The state after power-on reset (rule R290).
The spec makes the configuration an argument (rule R9). The host's interface needs one state, so this is the reset
state of `REF-SMALL` (rule R11). DESIGN CHOICE (log entry 1): `State.resetWith` is the reset state of every
configuration, and every statement about a run is made for every configuration. -/
def State.reset : State := State.resetWith refSmall

end Sys2Proof.Machine
end

