-- ==== Sys2Proof/Machine/Flags.lean ====
section
/-! DEFINITION. The status bits and codes of the block: state encodings (rules R91, R92), event flags (rule R78),
saturating counters (rules R154, R178), response codes and the response word (rules R76, R77). -/

namespace Sys2Proof.Machine

/-! ### State encodings -/

/-- The 2-bit encoding of `sess` (rule R92). -/
def sessCode : Sess → BitVec 2
  | .none => 0#2
  | .ready => 1#2
  | .failed => 2#2

/-- The 2-bit encoding of `fsm` (rule R91). -/
def fsmCode : Fsm → BitVec 2
  | .unsynced => 0#2
  | .waitFirstHalf => 1#2
  | .waitSecondHalf => 2#2

/-- The state that a 2-bit `fsm` register stands for. The value 3, never written, is treated as UNSYNCED (rule R91). -/
def fsmOfCode (v : BitVec 2) : Fsm :=
  if v = 1#2 then .waitFirstHalf else if v = 2#2 then .waitSecondHalf else .unsynced

/-! ### Event flags (rule R78) -/

/-- The event flags of a PUSH. -/
inductive Event where
  /-- An invalid demodulator response (rule R177). -/
  | demodFail
  /-- The decoder reported failure (rule R148). -/
  | decodeFail
  /-- A silence block was not appended for lack of room (rule R133). -/
  | silDrop
  /-- A decoded frame was not appended for lack of room (rule R149). -/
  | frameDrop
  deriving DecidableEq, Repr

/-- The bit of `cmd_flags` that an event sets (rule R78). -/
def eventBit : Event → BitVec 8
  | .demodFail => 0x01#8
  | .decodeFail => 0x02#8
  | .silDrop => 0x04#8
  | .frameDrop => 0x08#8

/-- Set an event's flag. No flag is cleared within a PUSH (rules R32 and R78). -/
def setEvent (e : Event) (s : State) : State := { s with cmdFlags := s.cmdFlags ||| eventBit e }

/-! ### Saturating counters -/

/-- `min(n + 1, 255)` on 8 bits (rules R154, R172 and R178). -/
def satInc (n : BitVec 8) : BitVec 8 := if n = 255#8 then 255#8 else n + 1#8

/-! ### Responses to the host -/

/-- The response codes (rule R77). -/
inductive Code where
  | ok
  | audio
  | noOutputYet
  | backpressure
  | configFault
  | initFail
  | notReady
  | illegalCommand
  | internalFault
  deriving DecidableEq, Repr

/-- The value of a response code (rule R77). -/
def codeValue : Code → BitVec 8
  | .ok => 0x00#8
  | .audio => 0x01#8
  | .noOutputYet => 0x02#8
  | .backpressure => 0x03#8
  | .configFault => 0x04#8
  | .initFail => 0x05#8
  | .notReady => 0x06#8
  | .illegalCommand => 0x07#8
  | .internalFault => 0x08#8

/-- The response word: `CODE`, `FLAGS`, `A`, `B` from the most significant byte down (rule R76). -/
def responseWord (code : Code) (flags a b : BitVec 8) : Word := codeValue code ++ flags ++ a ++ b

/-- `respond(code, flags, a, b, payload)` (rule R16): the command's response is settled and only its delivery,
the phase RESPOND, is left. -/
def respond (code : Code) (flags a b : BitVec 8) (payload : List Sample) (s : State) : State :=
  { s with phase := .respond { word := responseWord code flags a b, payload := payload } }

/-- `raise InternalFault(check)` (rules R16 and R262), the block's one exception.
It ends the command at once: `sess` becomes FAILED, the response is INTERNAL_FAULT with the check's number, and every
other state element keeps its value. The block saves no state and has no handler (rules R251 and R265), and no
return operation exists (rule R268): the way out of FAILED is CREATE (rule R267). -/
def internalFault (check : BitVec 8) (s : State) : State :=
  respond .internalFault 0#8 0#8 check [] { s with sess := .failed }

/-- The phase RESPOND: the response leaves on the host port, the command port is free for the next command and the
sequencer is IDLE (rules R33 and R200). -/
def deliver (rsp : Response) (s : State) : State :=
  { s with hostOut := s.hostOut ++ [rsp], cmdIn := s.cmdIn.tail, phase := .idle }

end Sys2Proof.Machine
end

