-- ==== Sys2Proof/Machine/Ops.lean ====
section
/-! DEFINITION. The block's internal operations: the ring buffers (rules R101 to R112), the bit packer (rule R150),
the frame synchronisation state machine (rules R131 to R149), publication (rule R185), the configuration checks
(rule R205) and RESET_STATE (rule R203). -/

namespace Sys2Proof.Machine

/-! ### Ring buffers (rules R100 to R112)

A buffer's capacity is a parameter of the configuration, so every operation takes it as an argument. -/

/-- The sample at offset `k` from the head: `M[(h + k) mod CAP]` (rule R110). -/
def ringCell (cap : Nat) (b : Ring) (k : Nat) : Sample := b.mem.getD ((b.head + k) % cap) 0#16

/-- The sequence a ring stands for: its `occ` samples, oldest first (rule R110). -/
def ringContents (cap : Nat) (b : Ring) : List Sample := (List.range b.occ).map (ringCell cap b)

/-- Write samples to consecutive cells of a ring's storage, from offset `pos` on (rule R111). -/
def ringStore (cap : Nat) (mem : List Sample) (pos : Nat) : List Sample → List Sample
  | [] => mem
  | x :: xs => ringStore cap (mem.set (pos % cap) x) (pos + 1) xs

/-- APPEND: whether it is accepted, and the buffer after it (rules R101, R102 and R111).
A rejected APPEND leaves the buffer as it is. -/
def ringAppend (cap : Nat) (b : Ring) (v : List Sample) : Bool × Ring :=
  if b.occ + v.length > cap then (false, b)
  else (true, { b with mem := ringStore cap b.mem (b.head + b.occ) v, occ := b.occ + v.length })

/-- FRONT: the first `n` samples, without removing them (rule R107), as the ring reads them (rule R112). -/
def ringFront (cap : Nat) (b : Ring) (n : Nat) : List Sample := (List.range n).map (ringCell cap b)

/-- The buffer without its first `n` samples: the head moves on and the occupancy falls (rule R112). -/
def ringSkip (cap : Nat) (b : Ring) (n : Nat) : Ring :=
  { b with head := (b.head + n) % cap, occ := b.occ - n }

/-- CONSUME_FRONT (rule R103). Nothing when `n` exceeds the occupancy, which is InternalFault check 1 (rule R104). -/
def ringConsume (cap : Nat) (b : Ring) (n : Nat) : Option Ring :=
  if n > b.occ then none else some (ringSkip cap b n)

/-- DRAIN: the chunk and the buffer after it, or nothing for NOT_ENOUGH (rules R105, R106 and R112). -/
def ringDrain (cap : Nat) (b : Ring) (c : Nat) : Option (List Sample × Ring) :=
  if b.occ ≥ c then some (ringFront cap b c, ringSkip cap b c) else none

/-- A buffer emptied by CREATE: no sample held, head 0 (rule R203). The storage is not written. -/
def ringClear (b : Ring) : Ring := { b with head := 0, occ := 0 }

/-- `zeros(n)` (rule R13). -/
def zeros (n : Nat) : List Sample := List.replicate n 0#16

/-- No buffer's occupancy exceeds its capacity: InternalFault check 2 passes (rule R262). -/
def occupancyOk (s : State) : Bool := s.inBuf.occ ≤ s.cfg.inCap && s.outBuf.occ ≤ s.cfg.outCap

/-- Go on to a phase after a buffer operation, unless InternalFault check 2 fails (rule R262). -/
def afterBufferOp (p : Phase) (s : State) : State :=
  if occupancyOk s then { s with phase := p } else internalFault 2#8 s

/-! ### Bit packing (rule R150) -/

/-- The byte whose bit `7 - j` is the `j`-th bit of a list: the first bit is the most significant (rule R150). -/
def byteOfBits (bits : List Bool) : Byte :=
  BitVec.ofNat 8 ((List.range 8).foldl (fun acc j => 2 * acc + (bits.getD j false).toNat) 0)

/-- `pack`: byte `k` holds bits `8k` to `8k + 7`, the first most significant (rule R150). -/
def pack (nbytes : Nat) (bits : List Bool) : List Byte :=
  (List.range nbytes).map fun k => byteOfBits ((bits.drop (8 * k)).take 8)

/-- `unpack(bytes)[i] = bytes[i div 8][7 - (i mod 8)]` (rule R152). -/
def unpack (bytes : List Byte) : List Bool :=
  (List.range (8 * bytes.length)).map fun i => (bytes.getD (i / 8) 0#8).getLsbD (7 - i % 8)

/-- `2*B = 8*NBYTES`: InternalFault check 3 passes (rules R151 and R262). -/
def packFits (c : Config) : Bool := c.frameBits == 8 * c.nbytes

/-! ### The configuration checks (rule R205) -/

/-- Check `Kk` of rule R205, for `k` from 1 to 9. -/
def configCheck (c : Config) : Nat → Bool
  | 1 => 1 ≤ c.b && (2 * c.b) % 8 == 0
  | 2 => 8 * c.nbytes == 2 * c.b
  | 3 => 2 * c.nNom ≤ c.inCap
  | 4 => 2 * c.frameOut ≤ c.outCap
  | 5 => 1 ≤ c.ninMin && c.ninMin ≤ c.nNom && c.nNom ≤ c.ninMax && c.ninMax ≤ 65535
  | 6 => c.ninMax + c.nPush - 1 ≤ c.inCap
  | 7 => c.nNom ≤ c.outCap && c.nDrain ≤ c.outCap
  | 8 => 1 ≤ c.nPush && 1 ≤ c.nDrain && 1 ≤ c.frameOut
  | 9 => c.nSym ≤ 240
  | _ => true

/-- The number of the first failing check, tested in order from K1 to K9 (rule R205). -/
def firstFailingCheck (c : Config) : Option Nat :=
  [1, 2, 3, 4, 5, 6, 7, 8, 9].find? fun k => !configCheck c k

/-! ### RESET_STATE (rule R203) -/

/-- CREATE step 1: every state element but `sess` takes its reset value (rule R203). -/
def resetState (s : State) : State :=
  { s with
    fsm := .unsynced
    r := s.cfg.nNom
    inBuf := ringClear s.inBuf
    outBuf := ringClear s.outBuf
    pend := List.replicate s.cfg.frameBits false
    snap := Snapshot.zero s.cfg
    cmdFlags := 0#8
    iterCnt := 0#8
    decCnt := 0#8 }

/-! ### The cadence loop's parts (rules R171 to R185) -/

/-- A demodulator response is valid: `valid = 1` and `NIN_MIN <= next_r <= NIN_MAX` (rule R175). -/
def responseValid (c : Config) (d : DemodRsp) : Bool :=
  d.valid && c.ninMin ≤ d.nextR.toNat && d.nextR.toNat ≤ c.ninMax

/-- The snapshot that `publish(d)` writes, given `fsm` after the step (rule R185). -/
def publishedSnapshot (d : DemodRsp) (fsm : Fsm) (old : Snapshot) : Snapshot where
  lock := d.lock
  snr := d.snr
  toff := d.toff
  foff := d.foff
  clkoff := d.clkoff
  sym := d.sym
  fsmPub := fsm
  seq := old.seq + 1#32

/-- `publish(d)`: the whole snapshot in one atomic step (rule R185). -/
def publish (d : DemodRsp) (s : State) : State :=
  { s with snap := publishedSnapshot d s.fsm s.snap }

/-! ### The frame synchronisation state machine (rules R130 to R149) -/

/-- The lock test: `lock = 1` and `snr > SNR_THR`, strict, compared as signed 16-bit values (rule R134). -/
def lockTest (c : Config) (d : DemodRsp) : Bool := d.lock && c.snrThr.slt d.snr

/-- A state machine step that wrote no buffer: `fsm` takes its value and the iteration publishes (rules R131 and R172). -/
def fsmTo (f : Fsm) (d : DemodRsp) (s : State) : State := { s with fsm := f, phase := .pPublish d }

/-- The value STEP_UNSYNCED gives `fsm` (rule R132). -/
def unsyncedNext (c : Config) (d : DemodRsp) : Fsm := if lockTest c d then .waitFirstHalf else .unsynced

/-- STEP_UNSYNCED with its EMIT_SILENCE (rules R132 and R133): a silence block of `N_NOM` zeros if it fits, else the
flag SIL_DROP; then the lock test. An append that leaves a buffer over capacity stops the command (rule R262). -/
def stepUnsynced (d : DemodRsp) (s : State) : State :=
  if s.outBuf.occ + s.cfg.nNom ≤ s.cfg.outCap then
    let s' := { s with outBuf := (ringAppend s.cfg.outCap s.outBuf (zeros s.cfg.nNom)).2 }
    if occupancyOk s' then fsmTo (unsyncedNext s.cfg d) d s' else internalFault 2#8 s'
  else fsmTo (unsyncedNext s.cfg d) d (setEvent .silDrop s)

/-- The first half of `PEND` replaced, the second kept (rule R137). -/
def captureFirst (c : Config) (bits pend : List Bool) : List Bool := bits ++ pend.drop c.b

/-- The second half of `PEND` replaced, the first kept (rule R141). -/
def captureSecond (c : Config) (bits pend : List Bool) : List Bool := pend.take c.b ++ bits

/-- STEP_WAIT_FIRST (rules R136 to R138). -/
def stepWaitFirst (d : DemodRsp) (s : State) : State :=
  if d.lock = false then fsmTo .unsynced d s
  else if d.sync = false then
    fsmTo .waitSecondHalf d { s with pend := captureFirst s.cfg d.bits s.pend }
  else fsmTo .waitFirstHalf d s

/-- STEP_WAIT_SECOND up to the first adapter request of COMPLETE_FRAME (rules R139 to R141). -/
def stepWaitSecond (d : DemodRsp) (s : State) : State :=
  if d.lock = false then fsmTo .unsynced d s
  else if d.sync = false then fsmTo .waitFirstHalf d s
  else { s with pend := captureSecond s.cfg d.bits s.pend, phase := .pRepairWait d }

/-- FSM_STEP: dispatch on `fsm` (rule R131). -/
def fsmStep (d : DemodRsp) (s : State) : State :=
  match s.fsm with
  | .unsynced => stepUnsynced d s
  | .waitFirstHalf => stepWaitFirst d s
  | .waitSecondHalf => stepWaitSecond d s

/-- The end of COMPLETE_FRAME and of STEP_WAIT_SECOND, given the decoder's answer (rules R139, R145, R148 and R149):
the audio is appended if it fits, else FRAME_DROP; without audio DECODE_FAIL; then `fsm` re-arms. -/
def finishFrame (audio : Option (List Sample)) (d : DemodRsp) (s : State) : State :=
  match audio with
  | none => fsmTo .waitFirstHalf d (setEvent .decodeFail s)
  | some v =>
    if s.outBuf.occ + s.cfg.frameOut ≤ s.cfg.outCap then
      let s' := { s with outBuf := (ringAppend s.cfg.outCap s.outBuf v).2 }
      if occupancyOk s' then fsmTo .waitFirstHalf d s' else internalFault 2#8 s'
    else fsmTo .waitFirstHalf d (setEvent .frameDrop s)

/-! ### Adapter ports (rules R63, R83 and R305) -/

/-- Put a request on its adapter port: it is outstanding until its response is taken (rule R63). -/
def issue (i : Instr) (s : State) : State :=
  { s with adapterOut := s.adapterOut ++ [encode i], awaiting := true }

/-! ### The status port (rules R80 and R243) -/

/-- A status response: the request leaves the port and the words go to the reader. Nothing else changes (rule R243). -/
def answerStatus (ws : List Word) (s : State) : State :=
  { s with statusIn := s.statusIn.tail, statusOut := s.statusOut ++ [ws] }

end Sys2Proof.Machine
end

