-- ==== Sys2Proof/Machine/Fetch.lean ====
section
/-! DEFINITION. What the next step runs: the request at the status port, the adapter request of the sequencer's
phase, or the command at the command port. The block fetches no instruction stream (rule R66), so this takes the
place of a fetch. It also says where a word of the opcode table has to stand so that the next step runs it. -/

namespace Sys2Proof.Machine

/-- The transaction a status request word stands for (rules R80 and R230). -/
def statusInstr (c : Config) (w : Word) : Except DecodeError Instr := decode .status c { header := w }

/-- The command at the command port (rules R200 and R201). -/
def commandInstr (c : Config) (m : Packet) : Except DecodeError Instr := decode .command c m

/-- The adapter request that the sequencer's phase makes, with the operands it takes from the state
(rules R146, R147, R173, R206 and R207), or nothing in a phase that makes none. -/
def adapterInstr (s : State) : Option Instr :=
  match s.phase with
  | .cDemodInit => some .demodInit
  | .cDecInit => some .decInit
  | .pDemodWait => some (.demodReq (BitVec.ofNat 16 s.r) (ringFront s.cfg.inCap s.inBuf s.r))
  | .pRepairWait _ => some (.decRepair s.pend)
  | .pDecodeWait _ => some (.decDecode (pack s.cfg.nbytes s.pend))
  | _ => none

/-- A demodulator response with every field 0, for a sequencer placed inside an iteration. -/
def zeroRsp (c : Config) : DemodRsp where
  valid := false
  sync := false
  lock := false
  nextR := 0#16
  snr := 0#16
  toff := 0#32
  foff := 0#32
  clkoff := 0#32
  sym := List.replicate c.nSym 0#32
  bits := List.replicate c.b false

/-- A buffer whose `n` oldest samples are zeros. -/
def zeroRing (cap n : Nat) : Ring := { Ring.empty cap with occ := n }

/-- Place a packet so that the very next step of the sequencer runs it: a command at the command port of an IDLE
block; an adapter request by the phase that makes it, with the operands it takes from the state. -/
def placeAdapter (header : Word) (s : State) : State :=
  if opField header = 0x10#8 then { s with phase := .cDemodInit }
  else if opField header = 0x11#8 then
    { s with
      phase := .pDemodWait
      r := (demodCount header).toNat
      inBuf := zeroRing s.cfg.inCap (demodCount header).toNat }
  else if opField header = 0x20#8 then { s with phase := .cDecInit }
  else if opField header = 0x21#8 then
    { s with phase := .pRepairWait (zeroRsp s.cfg), pend := List.replicate s.cfg.frameBits false }
  else { s with phase := .pDecodeWait (zeroRsp s.cfg), pend := List.replicate s.cfg.frameBits false }

/-- The packet that a table row's bytes carry over a port, or the bare header where they carry none. -/
def tablePacket (c : Config) (nbits w : Nat) : Packet :=
  match packetOfBytes (tablePort (tableHeader nbits w)) (tableBytes c nbits w) with
  | .ok m => m
  | .error _ => { header := tableHeader nbits w }

/-- Place a word of the opcode table where the next step takes it from. -/
def placeTableWord (nbits w : Nat) (s : State) : State :=
  let s' := { s with schedule := [], statusIn := [], awaiting := false }
  match tablePort (tableHeader nbits w) with
  | .command => { s' with phase := .idle, cmdIn := [tablePacket s.cfg nbits w] }
  | .status => { s' with statusIn := [tableHeader nbits w] }
  | .demod => placeAdapter (tableHeader nbits w) s'
  | .decoder => placeAdapter (tableHeader nbits w) s'

end Sys2Proof.Machine
end

