-- ==== Sys2Proof/Machine/Operands.lean ====
section
/-! DEFINITION. The operands the block takes from its adapters: the response formats of rules R86 to R89. -/

namespace Sys2Proof.Machine

/-- Bit 0 of word 0 of an adapter response: `valid` (rule R86) or `ok` (rules R87 and R89). -/
def replyBit0 (w : Word) : Bool := w.getLsbD 0

/-- The response to DEMOD_INIT or DEC_INIT: one word, `[0] ok`, other bits ignored (rule R87).
Nothing when the response has another length. -/
def parseInit (y : Reply) : Option Bool :=
  match y.words, y.samples with
  | [w], [] => some (replyBit0 w)
  | _, _ => none

/-- The words of a DEMOD_REQ response before its symbols (rule R86). -/
def demodFixedWords : Nat := 5

/-- The response to DEMOD_REQ (rule R86): word 0 is `[0] valid`, `[1] sync`, `[2] lock`, `[31:16] next_r`; word 1 is
`[15:0] snr`; words 2 to 4 are `toff`, `foff`, `clkoff`; then `N_SYM` symbol words; then `ceil(B/32)` words of bits.
The block relies only on every field being present, so the other bits are ignored.
Nothing when the response has another length (rule R306). -/
def parseDemod (c : Config) (y : Reply) : Option DemodRsp :=
  if y.words.length = demodFixedWords + c.nSym + bitWordCount c.b ∧ y.samples = [] then
    some
      { valid := replyBit0 (y.words.getD 0 0#32)
        sync := (y.words.getD 0 0#32).getLsbD 1
        lock := (y.words.getD 0 0#32).getLsbD 2
        nextR := (y.words.getD 0 0#32).extractLsb' 16 16
        snr := (y.words.getD 1 0#32).extractLsb' 0 16
        toff := y.words.getD 2 0#32
        foff := y.words.getD 3 0#32
        clkoff := y.words.getD 4 0#32
        sym := (y.words.drop demodFixedWords).take c.nSym
        bits := wordsToBits c.b (y.words.drop (demodFixedWords + c.nSym)) }
  else none

/-- The response to DEC_REPAIR: `2*B` bits in `ceil(2*B/32)` words, taken unchecked (rule R88).
Nothing when the response has another length. -/
def parseRepair (c : Config) (y : Reply) : Option (List Bool) :=
  if y.words.length = bitWordCount c.frameBits ∧ y.samples = [] then
    some (wordsToBits c.frameBits y.words)
  else none

/-- The response to DEC_DECODE: word 0 is `[0] ok`, other bits ignored, then `FRAME_OUT` samples.
With `ok = 0` the samples are ignored and need not be there (rule R89), and the answer holds no audio.
Nothing when the response has another length. -/
def parseDecode (c : Config) (y : Reply) : Option (Option (List Sample)) :=
  match y.words with
  | [w] =>
    if replyBit0 w then
      if y.samples.length = c.frameOut then some (some y.samples) else none
    else some none
  | _ => none

end Sys2Proof.Machine
end

