-- ==== Sys2Proof/Machine/Adapter.lean ====
section
/-! DEFINITION. The five adapter requests (rules R83 to R90, R146, R147, R173, R206 and R207).
Each is one blocking request and response (rules R15 and R305). Its first step puts the request on the port, and its
next step takes the response. While the adapter has not answered, the block waits and nothing changes (rule R304).
A response of the wrong length has no meaning (rule R306) and is refused by name. -/

namespace Sys2Proof.Machine

/-- A response has been taken from the demodulator adapter: no request is outstanding (rule R63). -/
def takeDemod (rest : List Reply) (s : State) : State := { s with demodIn := rest, awaiting := false }

/-- A response has been taken from the decoder adapter: no request is outstanding (rule R63). -/
def takeDec (rest : List Reply) (s : State) : State := { s with decIn := rest, awaiting := false }

/-- An adapter failed to initialise: the session is FAILED and the response INIT_FAIL names the adapter
(rules R206, R207 and R253). -/
def initFail (which : BitVec 8) (s : State) : State :=
  respond .initFail 0#8 0#8 which [] { s with sess := .failed }

/-- The answer to DEMOD_INIT (rule R206): failure ends CREATE with B = 1, else the decoder adapter is next. -/
def demodInitAnswer (ok : Bool) (s : State) : State :=
  if ok then { s with phase := .cDecInit } else initFail 1#8 s

/-- The answer to DEC_INIT (rules R207 and R208): failure ends CREATE with B = 2, else the session is READY and the
response is OK. -/
def decInitAnswer (ok : Bool) (s : State) : State :=
  if ok then respond .ok 0#8 0#8 0#8 [] { s with sess := .ready } else initFail 2#8 s

/-- The answer to DEMOD_REQ (rules R172, R173 and R178): the iteration is counted and goes on to consume. -/
def demodReqAnswer (d : DemodRsp) (s : State) : State :=
  { s with iterCnt := satInc s.iterCnt, phase := .pConsume d }

/-- The iteration's response in a phase that waits for the decoder adapter. -/
def frameRsp : Phase → Option DemodRsp
  | .pRepairWait d => some d
  | .pDecodeWait d => some d
  | _ => none

/-- The answer to DEC_REPAIR (rule R146): the returned bits replace `PEND` as they are, and the decoder is next. -/
def decRepairAnswer (bits : List Bool) (s : State) : State :=
  match frameRsp s.phase with
  | some d => { s with pend := bits, phase := .pDecodeWait d }
  | none => { s with pend := bits }

/-- The issue of DEC_DECODE (rules R145, R147 and R154): `pack` needs whole bytes, else InternalFault check 3
(rules R151 and R262); the call is counted, and the request goes out. -/
def decDecodeIssue (bytes : List Byte) (s : State) : State :=
  if packFits s.cfg then issue (.decDecode bytes) { s with decCnt := satInc s.decCnt }
  else internalFault 3#8 s

/-- The answer to DEC_DECODE (rules R147 to R149). -/
def decDecodeAnswer (audio : Option (List Sample)) (s : State) : State :=
  match frameRsp s.phase with
  | some d => finishFrame audio d s
  | none => s

/-- DEMOD_INIT (rules R85, R87 and R206). -/
def execDemodInit (s : State) : Host.Outcome State Fault Refusal :=
  if s.awaiting = false then .next (issue .demodInit s)
  else
    match s.demodIn with
    | [] => .next s
    | y :: rest =>
      match parseInit y with
      | none => .refused .malformedAdapterResponse
      | some ok => .next (demodInitAnswer ok (takeDemod rest s))

/-- DEMOD_REQ with count `r` and the samples handed over (rules R85, R86, R172 and R173). -/
def execDemodReq (r : BitVec 16) (samples : List Sample) (s : State) : Host.Outcome State Fault Refusal :=
  if s.awaiting = false then .next (issue (.demodReq r samples) s)
  else
    match s.demodIn with
    | [] => .next s
    | y :: rest =>
      match parseDemod s.cfg y with
      | none => .refused .malformedAdapterResponse
      | some d => .next (demodReqAnswer d (takeDemod rest s))

/-- DEC_INIT (rules R85, R87, R207 and R208). -/
def execDecInit (s : State) : Host.Outcome State Fault Refusal :=
  if s.awaiting = false then .next (issue .decInit s)
  else
    match s.decIn with
    | [] => .next s
    | y :: rest =>
      match parseInit y with
      | none => .refused .malformedAdapterResponse
      | some ok => .next (decInitAnswer ok (takeDec rest s))

/-- DEC_REPAIR with the pending frame's bits (rules R85, R88 and R146). -/
def execDecRepair (bits : List Bool) (s : State) : Host.Outcome State Fault Refusal :=
  if s.awaiting = false then .next (issue (.decRepair bits) s)
  else
    match s.decIn with
    | [] => .next s
    | y :: rest =>
      match parseRepair s.cfg y with
      | none => .refused .malformedAdapterResponse
      | some repaired => .next (decRepairAnswer repaired (takeDec rest s))

/-- DEC_DECODE with the packed frame's bytes (rules R85, R89 and R147). -/
def execDecDecode (bytes : List Byte) (s : State) : Host.Outcome State Fault Refusal :=
  if s.awaiting = false then .next (decDecodeIssue bytes s)
  else
    match s.decIn with
    | [] => .next s
    | y :: rest =>
      match parseDecode s.cfg y with
      | none => .refused .malformedAdapterResponse
      | some audio => .next (decDecodeAnswer audio (takeDec rest s))

end Sys2Proof.Machine
end

