-- ==== Sys2Proof/Machine/Command.lean ====
section
/-! DEFINITION. The host commands CREATE and PUSH, phase by phase (rules R33, R202 and R210), and what the block does
with an illegal command (rule R220). -/

namespace Sys2Proof.Machine

/-- CREATE step 2, the phase C_CHECK (rules R202, R204 and R205): the first failing check is reported and the session
is FAILED, without an adapter request; otherwise the demodulator adapter is initialised next. -/
def createCheck (s : State) : State :=
  match firstFailingCheck s.cfg with
  | some k => respond .configFault 0#8 0#8 (BitVec.ofNat 8 k) [] { s with sess := .failed }
  | none => { s with phase := .cDemodInit }

/-- CREATE (rule R202): the phase the sequencer stands in.
IDLE accepts the command (rule R200), C_RESET is step 1, C_CHECK step 2, and RESPOND delivers the response.
Steps 3 to 5 are taken by the adapter requests DEMOD_INIT and DEC_INIT. In a phase of another command, or while an
adapter request is outstanding, CREATE waits at the port (rules R200 and R305). -/
def execCreate (s : State) : Host.Outcome State Fault Refusal :=
  match s.phase with
  | .idle => .next { s with phase := .cReset }
  | .cReset => .next { resetState s with phase := .cCheck }
  | .cCheck => .next (createCheck s)
  | .respond rsp => .next (deliver rsp s)
  | .cDemodInit => .next s
  | .cDecInit => .next s
  | .pAccept => .next s
  | .pAppend => .next s
  | .pLoopTest => .next s
  | .pDemodWait => .next s
  | .pConsume _ => .next s
  | .pFsm _ => .next s
  | .pRepairWait _ => .next s
  | .pDecodeWait _ => .next s
  | .pPublish _ => .next s
  | .pDrain => .next s

/-- PUSH's guards, the phase P_ACCEPT (rules R211, R212 and R222): NOT_READY, then BACKPRESSURE, each leaving every
state element as it is; otherwise the accumulators are cleared. -/
def pushAccept (s : State) : State :=
  if s.sess ≠ .ready then respond .notReady 0#8 0#8 (0#6 ++ sessCode s.sess) [] s
  else if s.inBuf.occ + s.cfg.nPush > s.cfg.inCap then respond .backpressure 0#8 0#8 0#8 [] s
  else { s with cmdFlags := 0#8, iterCnt := 0#8, decCnt := 0#8, phase := .pAppend }

/-- PUSH's append, the phase P_APPEND (rule R213). -/
def pushAppend (p : List Sample) (s : State) : State :=
  afterBufferOp .pLoopTest { s with inBuf := (ringAppend s.cfg.inCap s.inBuf p).2 }

/-- The test of the cadence loop, the phase P_LOOP_TEST (rule R171). -/
def pushLoopTest (s : State) : State :=
  if s.inBuf.occ ≥ s.r then { s with phase := .pDemodWait } else { s with phase := .pDrain }

/-- The rest of ITERATION after the demodulator's answer, the phase P_CONSUME (rules R172 and R174 to R177):
the `r` samples are consumed; an invalid response sets DEMOD_FAIL and nothing else; a valid one sets `r`. -/
def pushConsume (d : DemodRsp) (s : State) : State :=
  match ringConsume s.cfg.inCap s.inBuf s.r with
  | none => internalFault 1#8 s
  | some b =>
    let s' := { s with inBuf := b }
    if occupancyOk s' then
      if responseValid s.cfg d then { s' with r := d.nextR.toNat, phase := .pFsm d }
      else setEvent .demodFail { s' with phase := .pLoopTest }
    else internalFault 2#8 s'

/-- PUSH's publication, the phase P_PUBLISH (rules R172 and R185). -/
def pushPublish (d : DemodRsp) (s : State) : State := { publish d s with phase := .pLoopTest }

/-- PUSH's drain, the phase P_DRAIN (rules R215 and R216): one chunk of `N_DRAIN` samples with AUDIO, or NO_OUTPUT_YET
with the buffer as it was. Both report the flags and counters of the whole PUSH. -/
def pushDrain (s : State) : State :=
  match ringDrain s.cfg.outCap s.outBuf s.cfg.nDrain with
  | some (chunk, b) =>
    let s' := { s with outBuf := b }
    if occupancyOk s' then respond .audio s.cmdFlags s.iterCnt s.decCnt chunk s' else internalFault 2#8 s'
  | none =>
    if occupancyOk s then respond .noOutputYet s.cmdFlags s.iterCnt s.decCnt [] s else internalFault 2#8 s

/-- PUSH (rule R210): the phase the sequencer stands in.
IDLE accepts the command (rule R200) and RESPOND delivers the response. P_DEMOD_WAIT, P_REPAIR_WAIT and P_DECODE_WAIT
belong to the adapter requests DEMOD_REQ, DEC_REPAIR and DEC_DECODE, and PUSH waits in them (rule R305). In a phase of
CREATE it waits at the port (rule R200). -/
def execPush (p : List Sample) (s : State) : Host.Outcome State Fault Refusal :=
  match s.phase with
  | .idle => .next { s with phase := .pAccept }
  | .pAccept => .next (pushAccept s)
  | .pAppend => .next (pushAppend p s)
  | .pLoopTest => .next (pushLoopTest s)
  | .pConsume d => .next (pushConsume d s)
  | .pFsm d => .next (fsmStep d s)
  | .pPublish d => .next (pushPublish d s)
  | .pDrain => .next (pushDrain s)
  | .respond rsp => .next (deliver rsp s)
  | .pDemodWait => .next s
  | .pRepairWait _ => .next s
  | .pDecodeWait _ => .next s
  | .cReset => .next s
  | .cCheck => .next s
  | .cDemodInit => .next s
  | .cDecInit => .next s

/-- What the block does with an illegal command (rules R75 and R220): in IDLE the response ILLEGAL_COMMAND is settled
and no state element changes; RESPOND delivers it. In a phase of another command it waits at the port (rule R200). -/
def illegalCommand (s : State) : State :=
  match s.phase with
  | .idle => respond .illegalCommand 0#8 0#8 0#8 [] s
  | .respond rsp => deliver rsp s
  | _ => s

end Sys2Proof.Machine
end

