-- ==== Sys2Proof/Machine/Status.lean ====
section
/-! DEFINITION. The status read port (rules R230 to R245): one definition per READ, over the register values of
rule R81. No read changes any state of the block (rule R243). -/

namespace Sys2Proof.Machine

/-! ### Register values (rule R81) -/

/-- A one-bit value in a 32-bit register, `zext_32` (rule R12). -/
def boolWord (b : Bool) : Word := if b then 1#32 else 0#32

/-- SYNCED: the published state machine state is not UNSYNCED (rules R30 and R232). -/
def synced (n : Snapshot) : Bool := n.fsmPub ≠ .unsynced

/-- SYNC (rule R232). -/
def syncWord (n : Snapshot) : Word := boolWord (synced n)

/-- FSM (rule R233). -/
def fsmWord (n : Snapshot) : Word := (fsmCode n.fsmPub).zeroExtend 32

/-- LOCK (rule R235). -/
def lockWord (n : Snapshot) : Word := boolWord n.lock

/-- SNR, sign-extended (rules R93 and R236). -/
def snrWord (n : Snapshot) : Word := n.snr.signExtend 32

/-- SESS (rule R231). -/
def sessWord (v : Sess) : Word := (sessCode v).zeroExtend 32

/-- NSYM (rule R241). -/
def nsymWord (c : Config) : Word := BitVec.ofNat 32 c.nSym

/-- SYM[i], and 0 past the last symbol (rules R81, R240 and R241). -/
def symWord (n : Snapshot) (i : Nat) : Word := n.sym.getD i 0#32

/-- The record READ_SNAPSHOT returns, every word from one publication (rule R242). -/
def snapshotRecord (n : Snapshot) : List Word :=
  [n.seq, syncWord n, fsmWord n, lockWord n, snrWord n, n.toff, n.foff, n.clkoff] ++ n.sym

/-! ### The reads -/

/-- READ SESS (rule R231). -/
def execReadSess (s : State) : Host.Outcome State Fault Refusal := .next (answerStatus [sessWord s.sess] s)

/-- READ SYNC (rule R232). -/
def execReadSync (s : State) : Host.Outcome State Fault Refusal := .next (answerStatus [syncWord s.snap] s)

/-- READ FSM (rule R233). -/
def execReadFsm (s : State) : Host.Outcome State Fault Refusal := .next (answerStatus [fsmWord s.snap] s)

/-- READ SEQ (rule R234). -/
def execReadSeq (s : State) : Host.Outcome State Fault Refusal := .next (answerStatus [s.snap.seq] s)

/-- READ LOCK (rule R235). -/
def execReadLock (s : State) : Host.Outcome State Fault Refusal := .next (answerStatus [lockWord s.snap] s)

/-- READ SNR (rule R236). -/
def execReadSnr (s : State) : Host.Outcome State Fault Refusal := .next (answerStatus [snrWord s.snap] s)

/-- READ TOFF (rule R237). -/
def execReadToff (s : State) : Host.Outcome State Fault Refusal := .next (answerStatus [s.snap.toff] s)

/-- READ FOFF (rule R238). -/
def execReadFoff (s : State) : Host.Outcome State Fault Refusal := .next (answerStatus [s.snap.foff] s)

/-- READ CLKOFF (rule R239). -/
def execReadClkoff (s : State) : Host.Outcome State Fault Refusal := .next (answerStatus [s.snap.clkoff] s)

/-- READ NSYM (rule R241). -/
def execReadNsym (s : State) : Host.Outcome State Fault Refusal := .next (answerStatus [nsymWord s.cfg] s)

/-- READ SYM[i] (rule R240). -/
def execReadSym (i : Nat) (s : State) : Host.Outcome State Fault Refusal := .next (answerStatus [symWord s.snap i] s)

/-- A READ_WORD of a reserved address: 0, whichever address it is (rules R82 and R241). -/
def execReadReserved (_addr : BitVec 8) (s : State) : Host.Outcome State Fault Refusal :=
  .next (answerStatus [0#32] s)

/-- READ_SNAPSHOT (rule R242). -/
def execReadSnapshot (s : State) : Host.Outcome State Fault Refusal := .next (answerStatus (snapshotRecord s.snap) s)

/-- An invalid status request word: the single word 0 and no effect (rules R80 and R243). -/
def invalidStatus (s : State) : State := answerStatus [0#32] s

end Sys2Proof.Machine
end

