-- ==== Sys2Proof/Machine/Dispatch.lean ====
section
/-! DEFINITION. The meaning of every transaction: one arm per row of the opcode table. -/

namespace Sys2Proof.Machine

def exec (i : Instr) (s : State) : Host.Outcome State Fault Refusal :=
  match i with
  | .create => Sys2Proof.Machine.execCreate s
  | .push samples => Sys2Proof.Machine.execPush samples s
  | .readSess => Sys2Proof.Machine.execReadSess s
  | .readSync => Sys2Proof.Machine.execReadSync s
  | .readFsm => Sys2Proof.Machine.execReadFsm s
  | .readSeq => Sys2Proof.Machine.execReadSeq s
  | .readLock => Sys2Proof.Machine.execReadLock s
  | .readSnr => Sys2Proof.Machine.execReadSnr s
  | .readToff => Sys2Proof.Machine.execReadToff s
  | .readFoff => Sys2Proof.Machine.execReadFoff s
  | .readClkoff => Sys2Proof.Machine.execReadClkoff s
  | .readNsym => Sys2Proof.Machine.execReadNsym s
  | .readSym k => Sys2Proof.Machine.execReadSym k s
  | .readReserved addr => Sys2Proof.Machine.execReadReserved addr s
  | .readSnapshot => Sys2Proof.Machine.execReadSnapshot s
  | .demodInit => Sys2Proof.Machine.execDemodInit s
  | .demodReq r samples => Sys2Proof.Machine.execDemodReq r samples s
  | .decInit => Sys2Proof.Machine.execDecInit s
  | .decRepair bits => Sys2Proof.Machine.execDecRepair bits s
  | .decDecode bytes => Sys2Proof.Machine.execDecDecode bytes s

end Sys2Proof.Machine
end

