-- ==== Sys2Proof/Machine/Sequencer.lean ====
section
/-! DEFINITION. The two agents' moves (rule R272): a status reader's request, and the sequencer's next phase. -/

namespace Sys2Proof.Machine

/-- A status reader's move (rule R230): the oldest waiting request is served. With no request waiting nothing happens. -/
def readerStep (s : State) : Host.Outcome State Fault Refusal :=
  match s.statusIn with
  | [] => .next s
  | w :: _ =>
    match statusInstr s.cfg w with
    | .ok i => exec i s
    | .error _ => .next (invalidStatus s)

/-- The command port's part of a sequencer move (rules R200, R201 and R220): the command at the port runs its phase.
With no command at the port an IDLE block waits (rules R276 and R292), and a settled response is delivered. -/
def commandStep (s : State) : Host.Outcome State Fault Refusal :=
  match s.cmdIn with
  | [] =>
    match s.phase with
    | .idle => .next s
    | .respond rsp => .next (deliver rsp s)
    | _ => .fault .commandLost
  | m :: _ =>
    match commandInstr s.cfg m with
    | .ok i => exec i s
    | .error _ => .next (illegalCommand s)

/-- The sequencer's move (rules R33 and R60): in a phase that makes an adapter request it runs that request, in any
other phase the command at the command port. -/
def sequencerStep (s : State) : Host.Outcome State Fault Refusal :=
  match adapterInstr s with
  | some i => exec i s
  | none => commandStep s

end Sys2Proof.Machine
end

