-- ==== Sys2Proof/Machine/Step.lean ====
section
/-! DEFINITION. One step of the block: one agent moves (rule R272), and what it runs is one transaction. -/

namespace Sys2Proof.Machine

/-- One step. The schedule says which agent moves. Past its end a waiting status request goes first, because a status
request never waits for a host command (rule R230), and otherwise the sequencer moves. -/
def step (s : State) : Host.Outcome State Fault Refusal :=
  match s.schedule with
  | .sequencer :: rest => sequencerStep { s with schedule := rest }
  | .reader :: rest => readerStep { s with schedule := rest }
  | [] =>
    match s.statusIn with
    | [] => sequencerStep s
    | _ :: _ => readerStep s

/-- The state with a word of the opcode table placed where the next step takes it from. -/
def State.withFetchWord (s : State) (nbits w : Nat) : State := placeTableWord nbits w s

end Sys2Proof.Machine
end

