-- ==== Sys2Proof/Machine/Channel.lean ====
section
/-! DEFINITION. The block's ports over a byte-wide channel (rules R53 and R54): the responses to the host with their
audio, the status answers and the adapters' responses as bytes, and what arrives and leaves at a port in that form.
Requests and commands have their bytes in `Packet.toBytes`. One byte string is one transaction; the spec gives the
channel no framing (log entry 15). -/

namespace Sys2Proof.Machine

/-! ### Answers as bytes -/

/-- A word and then samples, from bytes: the form of a host response and of a DEC_DECODE response. -/
def wordThenSamples : List Byte → Except DecodeError (Word × List Sample)
  | b0 :: b1 :: b2 :: b3 :: rest =>
    match samplesOfBytes rest with
    | some xs => .ok (wordOfBytes b0 b1 b2 b3, xs)
    | none => .error .truncated
  | _ => .error .truncated

/-- A response to the host as bytes: the response word, then the audio payload (rules R53, R54, R70 and R76). -/
def responseBytes (rsp : Response) : List Byte := wordBytes rsp.word ++ sampleBlockBytes rsp.payload

/-- The host response that a byte string carries. -/
def responseOfBytes (bytes : List Byte) : Except DecodeError Response :=
  match wordThenSamples bytes with
  | .ok (w, xs) => .ok { word := w, payload := xs }
  | .error e => .error e

/-- A status answer as bytes: one word, or the words of a snapshot in order (rules R54 and R242). -/
def statusAnswerBytes (ws : List Word) : List Byte := wordBlockBytes ws

/-- The status answer that a byte string carries. -/
def statusAnswerOfBytes (bytes : List Byte) : Except DecodeError (List Word) :=
  match wordsOfBytes bytes with
  | some ws => .ok ws
  | none => .error .truncated

/-- An adapter's response as bytes: its words, then its samples (rules R53, R54 and R86 to R89). -/
def replyBytes (y : Reply) : List Byte := wordBlockBytes y.words ++ sampleBlockBytes y.samples

/-- Whether the response to a request ends in samples: DEC_DECODE's carries one word and then its audio (rule R89);
every other response is words throughout (rules R86 to R88). -/
def replyCarriesSamples (request : Instr) : Bool := opField (encode request).header == 0x22#8

/-- The response to a request that a byte string carries. Its length is checked where the request takes it. -/
def replyOfBytes (request : Instr) (bytes : List Byte) : Except DecodeError Reply :=
  if replyCarriesSamples request then
    match wordThenSamples bytes with
    | .ok (w, xs) => .ok { words := [w], samples := xs }
    | .error e => .error e
  else
    match wordsOfBytes bytes with
    | some ws => .ok { words := ws }
    | none => .error .truncated

/-! ### The ports -/

/-- The bytes of every response delivered to the host, oldest first. -/
def hostOutBytes (s : State) : List (List Byte) := s.hostOut.map responseBytes

/-- The bytes of every status answer, oldest first. -/
def statusOutBytes (s : State) : List (List Byte) := s.statusOut.map statusAnswerBytes

/-- The bytes of every adapter request, oldest first. -/
def adapterOutBytes (s : State) : List (List Byte) := s.adapterOut.map Packet.toBytes

/-- The bytes of a command arrive at the command port. A string that ends inside a word is no packet and is rejected by
name; whether the packet is a legal command is the block's to decide (rules R75 and R220). -/
def commandArrives (bytes : List Byte) (s : State) : Except DecodeError State :=
  match packetOfBytes .command bytes with
  | .ok m => .ok { s with cmdIn := s.cmdIn ++ [m] }
  | .error e => .error e

/-- The four bytes of a status request arrive at the status port (rule R80). A byte string that holds another number of
words is no status request: it is rejected by name and gets no answer. DESIGN CHOICE (log entry 15): of the requests
that are answered with the word 0, rule R80 lists only a bad SOP, MBZ or ADDR. -/
def statusArrives (bytes : List Byte) (s : State) : Except DecodeError State :=
  match wordsOfBytes bytes with
  | some [w] => .ok { s with statusIn := s.statusIn ++ [w] }
  | some _ => .error .payloadLength
  | none => .error .truncated

/-- The bytes of an adapter's response to a request arrive at the request's port. Nothing answers a transaction that is
no adapter request. -/
def replyArrives (request : Instr) (bytes : List Byte) (s : State) : Except DecodeError State :=
  match replyOfBytes request bytes with
  | .error e => .error e
  | .ok y =>
    match request.port with
    | .demod => .ok { s with demodIn := s.demodIn ++ [y] }
    | .decoder => .ok { s with decIn := s.decIn ++ [y] }
    | .command => .error .reservedOpcode
    | .status => .error .reservedOpcode

end Sys2Proof.Machine
end

