-- ==== Sys2Proof/Machine/Script.lean ====
section
/-! DEFINITION. The command scripts of rule R94: one host command or status request per line, and the adapter answers
as indented annotation lines. A line is read from its text into a `ScriptText`, and from there into packets or replies. -/

namespace Sys2Proof.Machine

/-! ### Lines -/

/-- A number as a script writes it (rule R94). -/
inductive Literal where
  | dec (v : Int)
  | hex (n : Nat)
  deriving DecidableEq, Repr

/-- The register names of rule R81. -/
inductive RegisterName where
  | sess
  | sync
  | fsm
  | seq
  | lock
  | snr
  | toff
  | foff
  | clkoff
  | nsym
  | sym (i : Nat)
  deriving DecidableEq, Repr

/-- A command line of a script (rule R94). -/
inductive ScriptLine where
  | create
  | push (literals : List Literal)
  | readName (name : RegisterName)
  | readAddr (addr : Literal)
  | snapshot
  deriving DecidableEq, Repr

/-- An annotation line of a script: what an adapter answers (rule R94). -/
inductive Annotation where
  | demod (valid sync lock : Bool) (snr next : BitVec 16) (bits : List Bool)
  | repairSame
  | repairBits (bits : List Bool)
  | decodeOk (audio : List Literal)
  | decodeFail
  | init (demod dec : Bool)
  deriving DecidableEq, Repr

/-- A line of text as read. -/
inductive ScriptText where
  /-- Nothing but spaces and a comment. -/
  | blank
  | command (line : ScriptLine)
  | annotation (a : Annotation)
  /-- Text that rule R94 gives no reading. -/
  | malformed
  deriving DecidableEq, Repr

/-! ### From a line to packets and replies -/

/-- The address that a register name stands for; `SYM[i]` means `0x10 + i` (rules R81 and R94). -/
def registerAddr : RegisterName → Nat
  | .sess => 0x00
  | .sync => 0x01
  | .fsm => 0x02
  | .seq => 0x03
  | .lock => 0x04
  | .snr => 0x05
  | .toff => 0x06
  | .foff => 0x07
  | .clkoff => 0x08
  | .nsym => 0x09
  | .sym i => 0x10 + i

/-- A sample: a decimal in `-32768..32767` or a hexadecimal in `0x0000..0xFFFF` (rule R94; log entry 16). -/
def sampleLiteral : Literal → Option Sample
  | .dec v => if -32768 ≤ v ∧ v ≤ 32767 then some (BitVec.ofInt 16 v) else none
  | .hex n => if n ≤ 0xFFFF then some (BitVec.ofNat 16 n) else none

/-- An 8-bit address. DESIGN CHOICE (log entry 16): a decimal or `0x` literal in 0..255, because rule R94 gives a form
for the literals of samples only. -/
def addrLiteral : Literal → Option (BitVec 8)
  | .dec v => if 0 ≤ v ∧ v ≤ 255 then some (BitVec.ofInt 8 v) else none
  | .hex n => if n ≤ 0xFF then some (BitVec.ofNat 8 n) else none

/-- The values of a list of literals, or nothing when one of them has none. -/
def allLiterals {α : Type} (f : Literal → Option α) : List Literal → Option (List α)
  | [] => some []
  | v :: vs =>
    match f v, allLiterals f vs with
    | some x, some xs => some (x :: xs)
    | _, _ => none

/-- The port and the packet that a script line encodes, or nothing when an operand does not fit (rule R94). -/
def assemble : ScriptLine → Option (Port × Packet)
  | .create => some (.command, { header := 0x01000000#32 })
  | .push literals =>
    (allLiterals sampleLiteral literals).map fun xs => (.command, { header := 0x02000000#32, samples := xs })
  | .readName name =>
    if registerAddr name < 256 then some (.status, { header := BitVec.ofNat 32 (registerAddr name) }) else none
  | .readAddr addr => (addrLiteral addr).map fun a => (.status, { header := readHeader a })
  | .snapshot => some (.status, { header := 0x01000000#32 })

/-- Word 0 of a DEMOD_REQ response (rule R86). -/
def demodWord0 (valid sync lock : Bool) (next : BitVec 16) : Word :=
  next ++ 0#13 ++ BitVec.ofBool lock ++ BitVec.ofBool sync ++ BitVec.ofBool valid

/-- The replies that an annotation stands for, each with its port. `input` is the frame that a `repair: same` gives back.
Fields that the annotation does not name are 0. -/
def annotationReplies (c : Config) (input : List Bool) : Annotation → Option (List (Port × Reply))
  | .demod valid sync lock snr next bits =>
    some [(.demod,
      { words := [demodWord0 valid sync lock next, snr.zeroExtend 32, 0#32, 0#32, 0#32] ++ List.replicate c.nSym 0#32 ++
          bitsToWords bits })]
  | .repairSame => some [(.decoder, { words := bitsToWords input })]
  | .repairBits bits => some [(.decoder, { words := bitsToWords bits })]
  | .decodeOk audio =>
    (allLiterals sampleLiteral audio).map fun xs => [(.decoder, { words := [1#32], samples := xs })]
  | .decodeFail => some [(.decoder, { words := [0#32] })]
  | .init demod dec =>
    some [(.demod, { words := [(BitVec.ofBool demod).zeroExtend 32] }),
      (.decoder, { words := [(BitVec.ofBool dec).zeroExtend 32] })]

/-! ### Reading text -/

/-- A space or a tab. -/
def isBlank (ch : Char) : Bool := ch == ' ' || ch == '\t'

/-- Text without the blanks at its ends. -/
def trimText (cs : List Char) : List Char := ((cs.dropWhile isBlank).reverse.dropWhile isBlank).reverse

/-- The pieces of a text between separators. -/
def splitText (sep : Char) : List Char → List (List Char)
  | [] => [[]]
  | ch :: cs =>
    match splitText sep cs with
    | [] => [[ch]]
    | w :: ws => if ch = sep then [] :: w :: ws else (ch :: w) :: ws

/-- The text behind a prefix, or nothing when the text does not start with it. -/
def afterPrefix : List Char → List Char → Option (List Char)
  | [], cs => some cs
  | p :: ps, ch :: cs => if p = ch then afterPrefix ps cs else none
  | _ :: _, [] => none

/-- The value of a digit. -/
def digitValue (ch : Char) : Option Nat :=
  let n := ch.toNat
  if 48 ≤ n ∧ n ≤ 57 then some (n - 48)
  else if 65 ≤ n ∧ n ≤ 70 then some (n - 55)
  else if 97 ≤ n ∧ n ≤ 102 then some (n - 87)
  else none

/-- The number that digits write in a base, continuing from `acc`. -/
def digitsFrom (base acc : Nat) : List Char → Option Nat
  | [] => some acc
  | ch :: cs =>
    match digitValue ch with
    | some d => if d < base then digitsFrom base (base * acc + d) cs else none
    | none => none

/-- A number of at least one digit. -/
def digits (base : Nat) (cs : List Char) : Option Nat := if cs = [] then none else digitsFrom base 0 cs

/-- A decimal or `0x` literal (rule R94). -/
def readLiteral (cs : List Char) : Option Literal :=
  match cs with
  | '0' :: 'x' :: ds => (digits 16 ds).map .hex
  | '-' :: ds => (digits 10 ds).map fun n => .dec (-(n : Int))
  | ds => (digits 10 ds).map fun n => .dec n

/-- The results of a list of attempts, or nothing when one failed. -/
def allRead {α : Type} (f : List Char → Option α) : List (List Char) → Option (List α)
  | [] => some []
  | t :: ts =>
    match f t, allRead f ts with
    | some x, some xs => some (x :: xs)
    | _, _ => none

/-- Literals separated by commas. -/
def readLiterals (cs : List Char) : Option (List Literal) :=
  allRead (fun t => readLiteral (trimText t)) (splitText ',' cs)

/-- A register name (rule R81), `SYM[i]` with a decimal index. -/
def readName (cs : List Char) : Option RegisterName :=
  if cs = ['S', 'E', 'S', 'S'] then some .sess
  else if cs = ['S', 'Y', 'N', 'C'] then some .sync
  else if cs = ['F', 'S', 'M'] then some .fsm
  else if cs = ['S', 'E', 'Q'] then some .seq
  else if cs = ['L', 'O', 'C', 'K'] then some .lock
  else if cs = ['S', 'N', 'R'] then some .snr
  else if cs = ['T', 'O', 'F', 'F'] then some .toff
  else if cs = ['F', 'O', 'F', 'F'] then some .foff
  else if cs = ['C', 'L', 'K', 'O', 'F', 'F'] then some .clkoff
  else if cs = ['N', 'S', 'Y', 'M'] then some .nsym
  else
    match afterPrefix ['S', 'Y', 'M', '['] cs with
    | some rest => if rest.getLast? = some ']' then (digits 10 rest.dropLast).map .sym else none
    | none => none

/-- The operand of a READ line: a name or an address. -/
def readTarget (cs : List Char) : Option ScriptLine :=
  match readName cs with
  | some name => some (.readName name)
  | none => (readLiteral cs).map .readAddr

/-- A command line, without its comment (rule R94). -/
def readCommand (cs : List Char) : Option ScriptLine :=
  if cs = ['C', 'R', 'E', 'A', 'T', 'E'] then some .create
  else if cs = ['S', 'N', 'A', 'P', 'S', 'H', 'O', 'T'] then some .snapshot
  else
    match afterPrefix ['P', 'U', 'S', 'H', ' '] cs, afterPrefix ['R', 'E', 'A', 'D', ' '] cs with
    | some rest, _ => (readLiterals rest).map .push
    | none, some rest => readTarget (trimText rest)
    | none, none => none

/-- A bit, `0` or `1`. -/
def readBit : List Char → Option Bool
  | ['0'] => some false
  | ['1'] => some true
  | _ => none

/-- Bits written without separators, the first one first. -/
def readBits (cs : List Char) : Option (List Bool) := allRead readBit (cs.map fun ch => [ch])

/-- `X * 256`, rounded to the nearest whole number, a half away from zero, for `X = num / 10^places`
(rule R94; log entry 16). -/
def roundQ8 (num places : Nat) : Nat := (2 * 256 * num + 10 ^ places) / (2 * 10 ^ places)

/-- An SNR in dB without a sign, as `X * 256` rounded (rule R94). -/
def readUnsignedDb (cs : List Char) : Option Nat :=
  match splitText '.' cs with
  | [whole] => (digits 10 whole).map fun n => roundQ8 n 0
  | [whole, fraction] =>
    match digits 10 whole, digits 10 fraction with
    | some _, some _ => (digits 10 (whole ++ fraction)).map fun n => roundQ8 n fraction.length
    | _, _ => none
  | _ => none

/-- An SNR in dB as a signed Q8.8 value (rules R93 and R94). DESIGN CHOICE (log entry 16): a value whose rounding does
not fit signed 16 bits has no reading, so its line is malformed; rule R94 says nothing of it. -/
def readDb (cs : List Char) : Option (BitVec 16) :=
  match cs with
  | '-' :: rest =>
    match readUnsignedDb rest with
    | some n => if n ≤ 32768 then some (BitVec.ofInt 16 (-(n : Int))) else none
    | none => none
  | _ =>
    match readUnsignedDb cs with
    | some n => if n ≤ 32767 then some (BitVec.ofNat 16 n) else none
    | none => none

/-- A 16-bit unsigned count (rule R93). DESIGN CHOICE (log entry 16): written in decimal, and a count above 65535 has no
reading. -/
def readCount (cs : List Char) : Option (BitVec 16) :=
  match digits 10 cs with
  | some n => if n ≤ 65535 then some (BitVec.ofNat 16 n) else none
  | none => none

/-- The value of a `key=value` field. -/
def readField {α : Type} (key : List Char) (f : List Char → Option α) (cs : List Char) : Option α :=
  match afterPrefix (key ++ ['=']) cs with
  | some rest => f rest
  | none => none

/-- The non-empty pieces of a text between blanks. -/
def fieldsOf (cs : List Char) : List (List Char) := (splitText ' ' cs).filter fun w => w ≠ []

/-- The fields of a `demod:` annotation (rule R94). -/
def readDemod (cs : List Char) : Option Annotation :=
  match fieldsOf cs with
  | [a, b, c, d, e, f] =>
    match readField ['v', 'a', 'l', 'i', 'd'] readBit a, readField ['s', 'y', 'n', 'c'] readBit b,
      readField ['l', 'o', 'c', 'k'] readBit c, readField ['s', 'n', 'r'] readDb d,
      readField ['n', 'e', 'x', 't'] readCount e, readField ['b', 'i', 't', 's'] readBits f with
    | some valid, some sync, some lock, some snr, some next, some bits => some (.demod valid sync lock snr next bits)
    | _, _, _, _, _, _ => none
  | _ => none

/-- A `repair:` annotation (rule R94). -/
def readRepair (cs : List Char) : Option Annotation :=
  if cs = ['s', 'a', 'm', 'e'] then some .repairSame
  else (readField ['b', 'i', 't', 's'] readBits cs).map .repairBits

/-- A `decode:` annotation (rule R94). -/
def readDecode (cs : List Char) : Option Annotation :=
  if cs = ['o', 'k', '=', '0'] then some .decodeFail
  else
    match afterPrefix ['o', 'k', '=', '1', ' '] cs with
    | some rest =>
      match afterPrefix ['a', 'u', 'd', 'i', 'o', '=', '['] (trimText rest) with
      | some list => if list.getLast? = some ']' then (readLiterals list.dropLast).map .decodeOk else none
      | none => none
    | none => none

/-- An `init:` annotation (rule R94). -/
def readInit (cs : List Char) : Option Annotation :=
  match fieldsOf cs with
  | [a, b] =>
    match readField ['d', 'e', 'm', 'o', 'd'] readBit a, readField ['d', 'e', 'c'] readBit b with
    | some demod, some dec => some (.init demod dec)
    | _, _ => none
  | _ => none

/-- An annotation line, without its comment and its indentation (rule R94). -/
def readAnnotation (cs : List Char) : Option Annotation :=
  match afterPrefix ['d', 'e', 'm', 'o', 'd', ':'] cs, afterPrefix ['r', 'e', 'p', 'a', 'i', 'r', ':'] cs,
    afterPrefix ['d', 'e', 'c', 'o', 'd', 'e', ':'] cs, afterPrefix ['i', 'n', 'i', 't', ':'] cs with
  | some rest, _, _, _ => readDemod (trimText rest)
  | none, some rest, _, _ => readRepair (trimText rest)
  | none, none, some rest, _ => readDecode (trimText rest)
  | none, none, none, some rest => readInit (trimText rest)
  | none, none, none, none => none

/-- One line of a script: `;` starts a comment, and an indented line is an annotation (rule R94). -/
def readLine (line : List Char) : ScriptText :=
  let text := line.takeWhile fun ch => ch ≠ ';'
  if trimText text = [] then .blank
  else if (text.head?.map isBlank).getD false then
    match readAnnotation (trimText text) with
    | some a => .annotation a
    | none => .malformed
  else
    match readCommand (trimText text) with
    | some line => .command line
    | none => .malformed

end Sys2Proof.Machine
end

