-- ==== Sys2Proof/Safety.lean ====
section
/-! DEFINITION. What the claims speak of: the invariant of rule R36, and PUSH as the one function of sequences that
the pseudocode of rules R101 to R215 describes. -/

namespace Sys2Proof.Machine

/-! ### The invariant (rule R36) -/

/-- A configuration that passes K1 to K9 (rule R205). -/
abbrev ConfigOk (c : Config) : Prop := firstFailingCheck c = none

/-- A ring in good form: storage of `cap` samples, the head in `0..cap-1`, the occupancy in `0..cap` (rule R110).
A buffer of capacity 0 has its head at 0. -/
def ringWf (cap : Nat) (b : Ring) : Bool :=
  b.mem.length == cap && (b.head < cap || b.head == 0) && b.occ ≤ cap

/-- A demodulator response with `N_SYM` symbols and `B` bits (rule R86). -/
def rspWf (c : Config) (d : DemodRsp) : Bool := d.sym.length == c.nSym && d.bits.length == c.b

/-- The input buffer holds fewer samples than the next request takes: the cadence loop has ended (rule R181). -/
abbrev LoopEnded (s : State) : Prop := s.inBuf.occ < s.r

/-- What holds in each phase of the sequencer (rules R33, R36, R63, R181 and R262). -/
def PhaseOk (s : State) : Prop :=
  match s.phase with
  | .idle => s.awaiting = false ∧ (s.sess = .ready → LoopEnded s)
  | .cReset => s.awaiting = false
  | .cCheck => s.awaiting = false ∧ s.inBuf.occ = 0 ∧ s.r = s.cfg.nNom
  | .cDemodInit => ConfigOk s.cfg ∧ LoopEnded s
  | .cDecInit => ConfigOk s.cfg ∧ LoopEnded s
  | .pAccept => s.awaiting = false ∧ (s.sess = .ready → LoopEnded s)
  | .pAppend => s.awaiting = false ∧ s.sess = .ready ∧ LoopEnded s
  | .pLoopTest => s.awaiting = false ∧ s.sess = .ready
  | .pDemodWait => s.sess = .ready ∧ s.r ≤ s.inBuf.occ
  | .pConsume d => s.awaiting = false ∧ s.sess = .ready ∧ s.r ≤ s.inBuf.occ ∧ rspWf s.cfg d = true
  | .pFsm d => s.awaiting = false ∧ s.sess = .ready ∧ rspWf s.cfg d = true
  | .pRepairWait d => s.sess = .ready ∧ rspWf s.cfg d = true ∧ s.fsm = .waitSecondHalf
  | .pDecodeWait d => s.sess = .ready ∧ rspWf s.cfg d = true ∧ s.fsm = .waitSecondHalf
  | .pPublish d => s.awaiting = false ∧ s.sess = .ready ∧ rspWf s.cfg d = true
  | .pDrain => s.awaiting = false ∧ s.sess = .ready ∧ LoopEnded s
  | .respond rsp =>
    s.awaiting = false ∧ (s.sess = .ready → LoopEnded s) ∧ opField rsp.word ≠ codeValue .backpressure ∧
      opField rsp.word ≠ codeValue .internalFault

/-- The command at the port is the one whose phase the sequencer stands in (rules R33 and R200). -/
def CommandOk (s : State) : Prop :=
  match s.phase with
  | .idle => True
  | .respond _ => s.cmdIn ≠ []
  | .cReset => ∃ m rest, s.cmdIn = m :: rest ∧ commandInstr s.cfg m = .ok .create
  | .cCheck => ∃ m rest, s.cmdIn = m :: rest ∧ commandInstr s.cfg m = .ok .create
  | .cDemodInit => ∃ m rest, s.cmdIn = m :: rest ∧ commandInstr s.cfg m = .ok .create
  | .cDecInit => ∃ m rest, s.cmdIn = m :: rest ∧ commandInstr s.cfg m = .ok .create
  | .pAccept => ∃ m rest p, s.cmdIn = m :: rest ∧ commandInstr s.cfg m = .ok (.push p)
  | .pAppend => ∃ m rest p, s.cmdIn = m :: rest ∧ commandInstr s.cfg m = .ok (.push p)
  | .pLoopTest => ∃ m rest p, s.cmdIn = m :: rest ∧ commandInstr s.cfg m = .ok (.push p)
  | .pDemodWait => ∃ m rest p, s.cmdIn = m :: rest ∧ commandInstr s.cfg m = .ok (.push p)
  | .pConsume _ => ∃ m rest p, s.cmdIn = m :: rest ∧ commandInstr s.cfg m = .ok (.push p)
  | .pFsm _ => ∃ m rest p, s.cmdIn = m :: rest ∧ commandInstr s.cfg m = .ok (.push p)
  | .pRepairWait _ => ∃ m rest p, s.cmdIn = m :: rest ∧ commandInstr s.cfg m = .ok (.push p)
  | .pDecodeWait _ => ∃ m rest p, s.cmdIn = m :: rest ∧ commandInstr s.cfg m = .ok (.push p)
  | .pPublish _ => ∃ m rest p, s.cmdIn = m :: rest ∧ commandInstr s.cfg m = .ok (.push p)
  | .pDrain => ∃ m rest p, s.cmdIn = m :: rest ∧ commandInstr s.cfg m = .ok (.push p)

/-- The phase between a state machine step and its publication, in which `SNAP.fsm_pub` may lag `fsm` (rule R232). -/
def publishing : Phase → Bool
  | .pPublish _ => true
  | _ => false

/-- The invariant of the block (rules R20, R30, R36, R181 and R200), for every configuration. -/
structure Inv (s : State) : Prop where
  /-- `in_occ <= IN_CAP`, and the input ring is in good form (rules R25, R36 and R110). -/
  inWf : ringWf s.cfg.inCap s.inBuf = true
  /-- `out_occ <= OUT_CAP`, and the output ring is in good form (rules R26, R36 and R110). -/
  outWf : ringWf s.cfg.outCap s.outBuf = true
  /-- `PEND` holds `2*B` bits (rule R27). -/
  pendLength : s.pend.length = s.cfg.frameBits
  /-- `SNAP.sym` holds `N_SYM` symbols (rule R29). -/
  symLength : s.snap.sym.length = s.cfg.nSym
  /-- A READY session has a configuration that passes the checks (rules R204 and R208). -/
  readyConfig : s.sess = .ready → ConfigOk s.cfg
  /-- `NIN_MIN <= r <= NIN_MAX` (rules R24 and R36). -/
  requestRange : ConfigOk s.cfg → s.cfg.ninMin ≤ s.r ∧ s.r ≤ s.cfg.ninMax
  /-- `SNAP.fsm_pub` equals `fsm` except just before a publication (rule R30). -/
  published : publishing s.phase = false → s.snap.fsmPub = s.fsm
  /-- What holds in the phase the sequencer stands in. -/
  phaseOk : PhaseOk s
  /-- The command at the port is the one in progress. -/
  commandOk : CommandOk s

/-! ### The spec's tables as the claims read them -/

/-- Check `Kk` of rule R205's table, as the table writes it. -/
def CheckHolds (c : Config) : Nat → Prop
  | 1 => 1 ≤ c.b ∧ 2 * c.b % 8 = 0
  | 2 => 8 * c.nbytes = 2 * c.b
  | 3 => c.inCap ≥ 2 * c.nNom
  | 4 => c.outCap ≥ 2 * c.frameOut
  | 5 => 1 ≤ c.ninMin ∧ c.ninMin ≤ c.nNom ∧ c.nNom ≤ c.ninMax ∧ c.ninMax ≤ 65535
  | 6 => (c.inCap : Int) ≥ c.ninMax + c.nPush - 1
  | 7 => c.outCap ≥ c.nNom ∧ c.outCap ≥ c.nDrain
  | 8 => c.nPush ≥ 1 ∧ c.nDrain ≥ 1 ∧ c.frameOut ≥ 1
  | 9 => c.nSym ≤ 240
  | _ => True

/-- Rule R75's definition of an illegal command: a reserved OPC, a nonzero MBZ, or a payload of the wrong length. -/
def IllegalCommand (c : Config) (m : Packet) : Prop :=
  (opField m.header ≠ 0x01#8 ∧ opField m.header ≠ 0x02#8) ∨ low24 m.header ≠ 0#24 ∨
    (opField m.header = 0x01#8 ∧ (m.words ≠ [] ∨ m.samples ≠ [])) ∨
    (opField m.header = 0x02#8 ∧ (m.words ≠ [] ∨ m.samples.length ≠ c.nPush))

/-- Rule R80's valid status requests: READ_WORD with MBZ zero, and READ_SNAPSHOT with MBZ and ADDR zero. -/
def ValidStatusWord (w : Word) : Prop :=
  (w.toNat / 2 ^ 24 = 0 ∧ w.toNat / 2 ^ 8 % 2 ^ 16 = 0) ∨ w = 0x01000000#32

/-- The status register map of rule R81: the value at each address. -/
def registerValue (s : State) (addr : Nat) : Word :=
  if addr = 0x00 then (match s.sess with | .none => 0#32 | .ready => 1#32 | .failed => 2#32)
  else if addr = 0x01 then (if s.snap.fsmPub = .unsynced then 0#32 else 1#32)
  else if addr = 0x02 then (match s.snap.fsmPub with | .unsynced => 0#32 | .waitFirstHalf => 1#32 | .waitSecondHalf => 2#32)
  else if addr = 0x03 then s.snap.seq
  else if addr = 0x04 then (if s.snap.lock = true then 1#32 else 0#32)
  else if addr = 0x05 then BitVec.ofInt 32 s.snap.snr.toInt
  else if addr = 0x06 then s.snap.toff
  else if addr = 0x07 then s.snap.foff
  else if addr = 0x08 then s.snap.clkoff
  else if addr = 0x09 then BitVec.ofNat 32 s.cfg.nSym
  else if 0x10 ≤ addr ∧ addr < 0x10 + s.cfg.nSym then s.snap.sym.getD (addr - 0x10) 0#32
  else 0#32

/-! ### PUSH as one function of sequences -/

/-- The state elements that a PUSH may change, with the buffers as sequences (rules R13 and R20), and the requests made
of the adapters so far, oldest first. -/
structure Session where
  fsm : Fsm
  r : Nat
  input : List Sample
  output : List Sample
  pend : List Bool
  snap : Snapshot
  flags : BitVec 8
  iter : BitVec 8
  dec : BitVec 8
  asked : List Packet
  deriving DecidableEq, Repr

/-- The session a machine state stands for (rule R110's abstraction of the buffers). -/
def sessionOf (s : State) : Session where
  fsm := s.fsm
  r := s.r
  input := ringContents s.cfg.inCap s.inBuf
  output := ringContents s.cfg.outCap s.outBuf
  pend := s.pend
  snap := s.snap
  flags := s.cmdFlags
  iter := s.iterCnt
  dec := s.decCnt
  asked := s.adapterOut

/-- An adapter is called: its request goes out (rules R15 and R85). -/
def ask (i : Instr) (a : Session) : Session := { a with asked := a.asked ++ [encode i] }

/-- Append a block to the output if it fits, else raise the drop flag (rules R133 and R149). -/
def pourOut (c : Config) (v : List Sample) (drop : Event) (a : Session) : Session :=
  if a.output.length + v.length ≤ c.outCap then { a with output := a.output ++ v }
  else { a with flags := a.flags ||| eventBit drop }

/-- COMPLETE_FRAME (rule R145), given the decoder adapter's two answers: the repaired bits and the audio.
It calls `RepairCall(PEND)`, and `DecodeCall` on the packed repaired frame. -/
def completeFrame (c : Config) (repaired : List Bool) (audio : Option (List Sample)) (a : Session) : Session :=
  let a1 := { ask (.decRepair a.pend) a with pend := repaired, dec := satInc a.dec }
  let a2 := ask (.decDecode (pack c.nbytes a1.pend)) a1
  match audio with
  | none => { a2 with flags := a2.flags ||| eventBit .decodeFail }
  | some v => pourOut c v .frameDrop a2

/-- FSM_STEP (rules R131 to R141) on a valid response. It takes the decoder adapter's answers it needs from a list and
leaves the rest. Nothing when they are missing or malformed. -/
def fsmPass (c : Config) (d : DemodRsp) (a : Session) (dec : List Reply) : Option (Session × List Reply) :=
  match a.fsm with
  | .unsynced =>
    some ({ pourOut c (zeros c.nNom) .silDrop a with fsm := if d.lock && c.snrThr.slt d.snr then .waitFirstHalf else .unsynced },
      dec)
  | .waitFirstHalf =>
    if d.lock = false then some ({ a with fsm := .unsynced }, dec)
    else if d.sync = false then
      some ({ a with pend := d.bits ++ a.pend.drop c.b, fsm := .waitSecondHalf }, dec)
    else some (a, dec)
  | .waitSecondHalf =>
    if d.lock = false then some ({ a with fsm := .unsynced }, dec)
    else if d.sync = false then some ({ a with fsm := .waitFirstHalf }, dec)
    else
      match dec with
      | y1 :: y2 :: rest =>
        match parseRepair c y1, parseDecode c y2 with
        | some repaired, some audio =>
          let a1 := { a with pend := a.pend.take c.b ++ d.bits }
          some ({ completeFrame c repaired audio a1 with fsm := .waitFirstHalf }, rest)
        | _, _ => none
      | _ => none

/-- ITERATION (rule R172) on the response to its `DemodCall(FRONT(IN, r))`. -/
def iterationPass (c : Config) (d : DemodRsp) (a : Session) (dec : List Reply) : Option (Session × List Reply) :=
  let a1 :=
    { ask (.demodReq (BitVec.ofNat 16 a.r) (a.input.take a.r)) a with
      iter := satInc a.iter, input := a.input.drop a.r }
  if responseValid c d then
    match fsmPass c d { a1 with r := d.nextR.toNat } dec with
    | some (a2, rest) => some ({ a2 with snap := publishedSnapshot d a2.fsm a2.snap }, rest)
    | none => none
  else some ({ a1 with flags := a1.flags ||| eventBit .demodFail }, dec)

/-- CADENCE_LOOP (rule R171), with fuel. It takes the adapters' answers it needs and leaves the rest.
Nothing when they are missing or malformed, or when the fuel runs out first. -/
def cadencePass (c : Config) : Nat → Session → List Reply → List Reply → Option (Session × List Reply × List Reply)
  | 0, a, demod, dec => if a.input.length < a.r then some (a, demod, dec) else none
  | n + 1, a, demod, dec =>
    if a.input.length < a.r then some (a, demod, dec)
    else
      match demod with
      | [] => none
      | y :: rest =>
        match parseDemod c y with
        | none => none
        | some d =>
          match iterationPass c d a dec with
          | none => none
          | some (a', dec') => cadencePass c n a' rest dec'

/-- DRAIN and the response (rules R105, R215 and R216). -/
def drainPass (c : Config) (a : Session) : Session × Response :=
  if c.nDrain ≤ a.output.length then
    ({ a with output := a.output.drop c.nDrain },
      { word := responseWord .audio a.flags a.iter a.dec, payload := a.output.take c.nDrain })
  else (a, { word := responseWord .noOutputYet a.flags a.iter a.dec })

/-- An accepted PUSH (rules R210 and R213 to R222): the session and the response after it, and the answers left.
The fuel is the number of samples held, enough because every iteration removes at least one (rule R179). -/
def pushPass (c : Config) (p : List Sample) (a : Session) (demod dec : List Reply) :
    Option (Session × Response × List Reply × List Reply) :=
  let a0 := { a with flags := 0#8, iter := 0#8, dec := 0#8, input := a.input ++ p }
  match cadencePass c a0.input.length a0 demod dec with
  | some (a1, demod', dec') => some ((drainPass c a1).1, (drainPass c a1).2, demod', dec')
  | none => none

/-- An IDLE block in a READY session, no status request waiting and no schedule set, with a PUSH at its command port. -/
structure PushAtPort (s : State) (p : List Sample) (rest : List Packet) : Prop where
  idle : s.phase = .idle
  ready : s.sess = .ready
  quiet : s.statusIn = [] ∧ s.schedule = []
  command : ∃ m, s.cmdIn = m :: rest ∧ commandInstr s.cfg m = .ok (.push p)

end Sys2Proof.Machine
end

