-- ==== Sys2Proof/Certificates/Slice0/Obligations.lean ====
section
/-! DEFINITION. The statements for the provers, in the order of the spec's files. Each says which rule it formalises.
A frame is written as an equation: `t = { s with f := t.f, … }` says that every field but the named ones is unchanged. -/

open Sys2Proof Sys2Proof.Machine

/-! ### Encodings (30_encoding.md) -/

/-- Words written out from the encoding tables decode to the transactions they stand for (rules R72, R81, R85). -/
def Obligations.WrittenWordsDecode : Prop :=
  decode .command refSmall { header := 0x01000000#32 } = .ok .create ∧
  decode .command refSmall { header := 0x02000000#32, samples := [1#16, 2#16, 3#16, 4#16] } =
    .ok (.push [1#16, 2#16, 3#16, 4#16]) ∧
  decode .status refSmall { header := 0x00000005#32 } = .ok .readSnr ∧
  decode .status refSmall { header := 0x00000011#32 } = .ok (.readSym 1) ∧
  decode .status refSmall { header := 0x00000012#32 } = .ok (.readReserved 0x12#8) ∧
  decode .status refSmall { header := 0x01000000#32 } = .ok .readSnapshot ∧
  decode .demod refSmall { header := 0x11000003#32, samples := [7#16, 8#16, 9#16] } =
    .ok (.demodReq 3#16 [7#16, 8#16, 9#16]) ∧
  decode .decoder refSmall { header := 0x21000000#32, words := [0x6D#32] } =
    .ok (.decRepair [true, false, true, true, false, true, true, false]) ∧
  decode .decoder refSmall { header := 0x22000000#32, words := [0xB6#32] } = .ok (.decDecode [0xB6#8])

/-- Decoding the packet of a well-formed transaction gives the transaction back, in every configuration. -/
def Obligations.DecodeOfEncode : Prop :=
  ∀ (c : Config) (i : Instr), i.WellFormed c → decode i.port c (encode i) = .ok i

/-- A packet that decodes is the packet of what it decodes to: each packet of a port has one meaning, no bit of it is
ignored, and what is decoded is well formed. For DEC_REPAIR and DEC_DECODE this rests on the model's choice to reject a
request whose unused payload bits are not 0 (log entry 15); the spec has no reader of such a request. -/
def Obligations.EncodeOfDecode : Prop :=
  ∀ (p : Port) (c : Config) (m : Packet) (i : Instr), decode p c m = .ok i →
    i.port = p ∧ i.WellFormed c ∧ encode i = m

/-- Everything a port carries survives the byte-wide channel, and there a word's bytes and a sample's bytes come least
significant first (rules R53 and R54): well-formed transactions, the responses to the host with their audio, the status
answers and the adapters' responses. Where a payload stands (behind the header's or response word's four bytes, with no
length field) is the model's choice (log entry 15): rules R53 and R54 give the byte order and the order of the words. -/
def Obligations.ByteChannelRoundTrip : Prop :=
  (∀ (c : Config) (i : Instr), i.WellFormed c → decodeBytes i.port c (encode i).toBytes = .ok i) ∧
  (∀ (m : Packet) (k : Nat), k < 4 →
    m.toBytes.getD k 0#8 = BitVec.ofNat 8 (m.header.toNat / 2 ^ (8 * k))) ∧
  (∀ (h : Word) (xs : List Sample) (j k : Nat), j < xs.length → k < 2 →
    (Packet.toBytes { header := h, samples := xs }).getD (4 + 2 * j + k) 0#8 =
      BitVec.ofNat 8 ((xs.getD j 0#16).toNat / 2 ^ (8 * k))) ∧
    (∀ rsp : Response, responseOfBytes (responseBytes rsp) = .ok rsp ∧
      (∀ k, k < 4 → (responseBytes rsp).getD k 0#8 = BitVec.ofNat 8 (rsp.word.toNat / 2 ^ (8 * k))) ∧
      ∀ j k, j < rsp.payload.length → k < 2 →
        (responseBytes rsp).getD (4 + 2 * j + k) 0#8 =
          BitVec.ofNat 8 ((rsp.payload.getD j 0#16).toNat / 2 ^ (8 * k))) ∧
    (∀ ws : List Word, statusAnswerOfBytes (statusAnswerBytes ws) = .ok ws ∧
      ∀ i k, i < ws.length → k < 4 →
        (statusAnswerBytes ws).getD (4 * i + k) 0#8 = BitVec.ofNat 8 ((ws.getD i 0#32).toNat / 2 ^ (8 * k))) ∧
    (∀ (ws : List Word) (request : Instr), (∀ bytes, request ≠ .decDecode bytes) →
      request.port = .demod ∨ request.port = .decoder →
      replyOfBytes request (replyBytes { words := ws }) = .ok { words := ws } ∧
      ∀ i k, i < ws.length → k < 4 →
        (replyBytes { words := ws }).getD (4 * i + k) 0#8 = BitVec.ofNat 8 ((ws.getD i 0#32).toNat / 2 ^ (8 * k))) ∧
    (∀ (w : Word) (audio : List Sample) (bytes : List Byte),
      replyOfBytes (.decDecode bytes) (replyBytes { words := [w], samples := audio }) =
        .ok { words := [w], samples := audio } ∧
      (∀ k, k < 4 → (replyBytes { words := [w], samples := audio }).getD k 0#8 = BitVec.ofNat 8 (w.toNat / 2 ^ (8 * k))) ∧
      ∀ j k, j < audio.length → k < 2 →
        (replyBytes { words := [w], samples := audio }).getD (4 + 2 * j + k) 0#8 =
          BitVec.ofNat 8 ((audio.getD j 0#16).toNat / 2 ^ (8 * k)))

/-- Rule R84: a bit vector is carried in `ceil(n/32)` words, bit `j` in bit `j mod 32` of word `j / 32`, and the unused
high bits are 0. -/
def Obligations.BitVectorTransport : Prop :=
  ∀ bits : List Bool,
    (bitsToWords bits).length = (bits.length + 31) / 32 ∧
    (∀ j, j < bits.length → ((bitsToWords bits).getD (j / 32) 0#32).getLsbD (j % 32) = bits.getD j false) ∧
    (∀ k b, b < 32 → bits.length ≤ 32 * k + b → ((bitsToWords bits).getD k 0#32).getLsbD b = false)

/-- Rule R94, with the ranges of decimal and hexadecimal samples and the form of an address read as log entry 16 says:
the packet that a script line stands for decodes to the transaction the line names. -/
def Obligations.ScriptLinesDecode : Prop :=
  ∀ c : Config,
    (∃ m, assemble .create = some (.command, m) ∧ decode .command c m = .ok .create) ∧
    (∀ vs : List Int, vs.length = c.nPush → (∀ v ∈ vs, -32768 ≤ v ∧ v ≤ 32767) →
      ∃ m, assemble (.push (vs.map .dec)) = some (.command, m) ∧
        decode .command c m = .ok (.push (vs.map (BitVec.ofInt 16)))) ∧
    (∀ ns : List Nat, ns.length = c.nPush → (∀ n ∈ ns, n ≤ 0xFFFF) →
      ∃ m, assemble (.push (ns.map .hex)) = some (.command, m) ∧
        decode .command c m = .ok (.push (ns.map (BitVec.ofNat 16)))) ∧
    (∀ vs : List Int, (∃ v ∈ vs, v < -32768 ∨ 32767 < v) → assemble (.push (vs.map .dec)) = none) ∧
    (∀ k, k < c.nSym → k < 240 →
      ∃ m, assemble (.readName (.sym k)) = some (.status, m) ∧ decode .status c m = .ok (.readSym k)) ∧
    (∀ n, n ≤ 0xFF → assemble (.readAddr (.hex n)) = some (.status, { header := BitVec.ofNat 32 n })) ∧
    (∃ m, assemble .snapshot = some (.status, m) ∧ decode .status c m = .ok .readSnapshot)

/-- Rule R220: an IDLE block answers an illegal command (rule R75) with ILLEGAL_COMMAND and changes no state element;
the next move delivers the response. -/
def Obligations.IllegalCommandAnswered : Prop :=
  ∀ (s : State) (m : Packet) (rest : List Packet), s.phase = .idle → s.statusIn = [] → s.schedule = [] →
    s.cmdIn = m :: rest → IllegalCommand s.cfg m →
    (∃ e, decode .command s.cfg m = .error e) ∧
    step s = .next { s with phase := .respond { word := 0x07000000#32, payload := [] } } ∧
    Host.Core.run Sys2Proof.core 2 s =
      .next { s with hostOut := s.hostOut ++ [{ word := 0x07000000#32, payload := [] }], cmdIn := rest }

/-! ### Bit packing (41_frame_sync_fsm.md §7) -/

/-- Rule R150: `bytes[i div 8][7 - (i mod 8)] = bits[i]`. -/
def Obligations.PackPlacesBits : Prop :=
  ∀ (n : Nat) (bits : List Bool), bits.length = 8 * n →
    (pack n bits).length = n ∧
    ∀ i, i < 8 * n → ((pack n bits).getD (i / 8) 0#8).getLsbD (7 - i % 8) = bits.getD i false

/-- Rule R152: `pack` is a bijection from bit vectors to byte vectors, and `unpack` is its inverse. -/
def Obligations.PackIsBijective : Prop :=
  (∀ (n : Nat) (bits : List Bool), bits.length = 8 * n → unpack (pack n bits) = bits) ∧
  (∀ bytes : List Byte, pack bytes.length (unpack bytes) = bytes)

/-! ### The ring buffers and the sequences they stand for (40_buffer_ops.md) -/

/-- Rules R101, R102 and R113: APPEND on a ring is APPEND on its sequence, accepted exactly when the block fits. -/
def Obligations.AppendOnSequences : Prop :=
  ∀ (cap : Nat) (b : Ring) (v : List Sample), ringWf cap b = true →
    (b.occ + v.length > cap → ringAppend cap b v = (false, b)) ∧
    (b.occ + v.length ≤ cap → (ringAppend cap b v).1 = true ∧
      ringContents cap (ringAppend cap b v).2 = ringContents cap b ++ v ∧
      ringWf cap (ringAppend cap b v).2 = true)

/-- Rule R111: an accepted ring APPEND stores `v[j]` in cell `(h + occ + j) mod CAP`, adds `|v|` to the occupancy, and
leaves the head and every other cell of the storage as they were. -/
def Obligations.AppendStoresItsCells : Prop :=
  ∀ (cap : Nat) (b : Ring) (v : List Sample), ringWf cap b = true → b.occ + v.length ≤ cap →
    (ringAppend cap b v).2.head = b.head ∧ (ringAppend cap b v).2.occ = b.occ + v.length ∧
    (∀ j, j < v.length →
      (ringAppend cap b v).2.mem.getD ((b.head + b.occ + j) % cap) 0#16 = v.getD j 0#16) ∧
    (∀ a, (∀ j, j < v.length → a ≠ (b.head + b.occ + j) % cap) →
      (ringAppend cap b v).2.mem.getD a 0#16 = b.mem.getD a 0#16)

/-- Rules R103 and R112: CONSUME_FRONT drops the first `n` samples by moving the head, writes no cell, and fails
exactly when `n` exceeds the occupancy. -/
def Obligations.ConsumeOnSequences : Prop :=
  ∀ (cap : Nat) (b : Ring) (n : Nat), ringWf cap b = true →
    (n > b.occ → ringConsume cap b n = none) ∧
    (n ≤ b.occ → ∃ b', ringConsume cap b n = some b' ∧ ringContents cap b' = (ringContents cap b).drop n ∧
      b'.mem = b.mem ∧ b'.head = (b.head + n) % cap ∧ b'.occ = b.occ - n ∧ ringWf cap b' = true)

/-- Rules R105 and R112: DRAIN takes the first `c` samples if they are there, and otherwise reports NOT_ENOUGH (`none`),
which hands back no new buffer. -/
def Obligations.DrainOnSequences : Prop :=
  ∀ (cap : Nat) (b : Ring) (n : Nat), ringWf cap b = true →
    (b.occ < n → ringDrain cap b n = none) ∧
    (n ≤ b.occ → ∃ chunk b', ringDrain cap b n = some (chunk, b') ∧ chunk = (ringContents cap b).take n ∧
      ringContents cap b' = (ringContents cap b).drop n ∧ ringWf cap b' = true)

/-! ### Reset (70_reset_and_hazards.md) -/

/-- Rule R290: the state elements after power-on reset, for every configuration. -/
def Obligations.PowerOnValues : Prop :=
  ∀ c : Config,
    (State.resetWith c).cfg = c ∧
    (State.resetWith c).sess = .none ∧ (State.resetWith c).fsm = .unsynced ∧ (State.resetWith c).r = c.nNom ∧
    ringContents c.inCap (State.resetWith c).inBuf = [] ∧ ringContents c.outCap (State.resetWith c).outBuf = [] ∧
    (State.resetWith c).inBuf.head = 0 ∧ (State.resetWith c).outBuf.head = 0 ∧
    (State.resetWith c).pend = List.replicate (2 * c.b) false ∧
    (State.resetWith c).snap =
      { lock := false, snr := 0#16, toff := 0#32, foff := 0#32, clkoff := 0#32,
        sym := List.replicate c.nSym 0#32, fsmPub := .unsynced, seq := 0#32 } ∧
    (State.resetWith c).cmdFlags = 0#8 ∧ (State.resetWith c).iterCnt = 0#8 ∧ (State.resetWith c).decCnt = 0#8 ∧
    (State.resetWith c).phase = .idle

/-- After power-on reset every status register reads 0 except NSYM, which reads `N_SYM` (rules R81 and R291). -/
def Obligations.PowerOnStatusReads : Prop :=
  ∀ (c : Config) (addr : BitVec 8) (i : Instr), decode .status c { header := 0#24 ++ addr } = .ok i →
    exec i (State.resetWith c) =
      .next { State.resetWith c with statusOut := [[if addr = 0x09#8 then BitVec.ofNat 32 c.nSym else 0#32]] }

/-! ### CREATE (43_session_commands.md §2) -/

/-- CREATE runs its phases (rules R33, R200 and R202): IDLE accepts it, and RESPOND delivers its response and leaves
the port free. That exec of CREATE changes nothing in the phases of its two adapter requests, before and after their
issue, is the model's choice (log entry 11): there the step runs the adapter request instead. -/
def Obligations.CreateAcceptedAndDelivered : Prop :=
  ∀ s : State,
    (s.phase = .idle → exec .create s = .next { s with phase := .cReset }) ∧
    (s.phase = .cDemodInit ∨ s.phase = .cDecInit → exec .create s = .next s) ∧
    (∀ rsp, s.phase = .respond rsp →
      exec .create s = .next { s with hostOut := s.hostOut ++ [rsp], cmdIn := s.cmdIn.tail, phase := .idle })

/-- Rule R203: step 1 of CREATE gives every state element but `sess` its reset value, whatever the state before, and
writes no other element. That the cells of the buffers' storage keep their values is the model's choice (log entry 2):
rules R112 and R290 leave the storage of an emptied buffer unspecified. -/
def Obligations.CreateResetsState : Prop :=
  ∀ s : State, s.phase = .cReset → ∃ t, exec .create s = .next t ∧
    t = { s with
          fsm := t.fsm, r := t.r, inBuf := t.inBuf, outBuf := t.outBuf, pend := t.pend, snap := t.snap,
          cmdFlags := t.cmdFlags, iterCnt := t.iterCnt, decCnt := t.decCnt, phase := .cCheck } ∧
    t.fsm = .unsynced ∧ t.r = s.cfg.nNom ∧
    ringContents s.cfg.inCap t.inBuf = [] ∧ t.inBuf.head = 0 ∧ t.inBuf.mem = s.inBuf.mem ∧
    ringContents s.cfg.outCap t.outBuf = [] ∧ t.outBuf.head = 0 ∧ t.outBuf.mem = s.outBuf.mem ∧
    t.pend = List.replicate (2 * s.cfg.b) false ∧
    t.snap = { lock := false, snr := 0#16, toff := 0#32, foff := 0#32, clkoff := 0#32,
               sym := List.replicate s.cfg.nSym 0#32, fsmPub := .unsynced, seq := 0#32 } ∧
    t.cmdFlags = 0#8 ∧ t.iterCnt = 0#8 ∧ t.decCnt = 0#8

/-- Rules R205 and R252: step 2 of CREATE reports the first failing check of K1 to K9 in field B and sets `sess` to
FAILED, without an adapter request; when every check holds the demodulator adapter is initialised next. -/
def Obligations.CreateReportsFirstFailingCheck : Prop :=
  ∀ s : State, s.phase = .cCheck →
    (∀ k : Nat, 1 ≤ k → k ≤ 9 → ¬ CheckHolds s.cfg k → (∀ j, 1 ≤ j → j < k → CheckHolds s.cfg j) →
      exec .create s = .next { s with
        sess := .failed, phase := .respond { word := 0x04000000#32 ||| BitVec.ofNat 32 k, payload := [] } }) ∧
    ((∀ j, 1 ≤ j → j ≤ 9 → CheckHolds s.cfg j) → exec .create s = .next { s with phase := .cDemodInit })

/-- Rules R208 and R295: from any IDLE state, whatever `sess` is (rule R209), a CREATE whose configuration passes the
checks and whose adapters both answer `ok = 1` ends READY with the response OK, after DEMOD_INIT and DEC_INIT, and
every state element of rule R20 but `sess` then has its power-on value. -/
def Obligations.CreateRunsToReady : Prop :=
  ∀ (s : State) (rest : List Packet) (wd wc : Word) (ys zs : List Reply),
    s.phase = .idle → s.awaiting = false → s.statusIn = [] → s.schedule = [] →
    s.cmdIn = { header := 0x01000000#32 } :: rest → (∀ j, 1 ≤ j → j ≤ 9 → CheckHolds s.cfg j) →
    s.demodIn = { words := [wd] } :: ys → wd.getLsbD 0 = true →
    s.decIn = { words := [wc] } :: zs → wc.getLsbD 0 = true →
    ∃ t, Host.Core.run Sys2Proof.core 8 s = .next t ∧
      t = { s with
            sess := .ready, fsm := .unsynced, r := s.cfg.nNom, inBuf := t.inBuf, outBuf := t.outBuf,
            pend := List.replicate (2 * s.cfg.b) false, snap := Snapshot.zero s.cfg,
            cmdFlags := 0#8, iterCnt := 0#8, decCnt := 0#8, cmdIn := rest,
            hostOut := s.hostOut ++ [{ word := 0x00000000#32, payload := [] }],
            adapterOut := s.adapterOut ++ [{ header := 0x10000000#32 }, { header := 0x20000000#32 }],
            demodIn := ys, decIn := zs } ∧
      ringContents s.cfg.inCap t.inBuf = [] ∧ t.inBuf.head = 0 ∧
      ringContents s.cfg.outCap t.outBuf = [] ∧ t.outBuf.head = 0

/-! ### The adapter requests (30_encoding.md §5) -/

/-- Rules R85, R87 and R206: in C_DEMOD_INIT, DEMOD_INIT goes out as `0x10000000`; `ok = 1` leads to DEC_INIT, and
`ok = 0` ends CREATE with INIT_FAIL, B = 1, and `sess` FAILED. -/
def Obligations.DemodInitCompletes : Prop :=
  ∀ s : State, s.phase = .cDemodInit →
    (s.awaiting = false →
      exec .demodInit s =
        .next { s with adapterOut := s.adapterOut ++ [{ header := 0x10000000#32 }], awaiting := true }) ∧
    (∀ (w : Word) (rest : List Reply), s.awaiting = true → s.demodIn = { words := [w] } :: rest →
      (w.getLsbD 0 = true →
        exec .demodInit s = .next { s with demodIn := rest, awaiting := false, phase := .cDecInit }) ∧
      (w.getLsbD 0 = false →
        exec .demodInit s = .next { s with
          demodIn := rest, awaiting := false, sess := .failed,
          phase := .respond { word := 0x05000001#32, payload := [] } }))

/-- Rules R85, R87, R207 and R208: in C_DEC_INIT, DEC_INIT goes out as `0x20000000`; `ok = 1` makes the session READY
with the response OK, and `ok = 0` ends CREATE with INIT_FAIL, B = 2, and `sess` FAILED. -/
def Obligations.DecInitCompletes : Prop :=
  ∀ s : State, s.phase = .cDecInit →
    (s.awaiting = false →
      exec .decInit s =
        .next { s with adapterOut := s.adapterOut ++ [{ header := 0x20000000#32 }], awaiting := true }) ∧
    (∀ (w : Word) (rest : List Reply), s.awaiting = true → s.decIn = { words := [w] } :: rest →
      (w.getLsbD 0 = true →
        exec .decInit s = .next { s with
          decIn := rest, awaiting := false, sess := .ready,
          phase := .respond { word := 0x00000000#32, payload := [] } }) ∧
      (w.getLsbD 0 = false →
        exec .decInit s = .next { s with
          decIn := rest, awaiting := false, sess := .failed,
          phase := .respond { word := 0x05000002#32, payload := [] } }))

/-- Rule R173: in P_DEMOD_WAIT the block issues one DEMOD_REQ whose header carries `r` and whose payload is the `r`
oldest samples of `IN`, in order, and changes nothing else. -/
def Obligations.DemodReqHandsOverOldestSamples : Prop :=
  ∀ s : State, s.phase = .pDemodWait → s.awaiting = false → s.statusIn = [] → s.schedule = [] →
    ringWf s.cfg.inCap s.inBuf = true → s.r ≤ s.inBuf.occ → s.r ≤ 65535 →
    step s = .next { s with
      awaiting := true
      adapterOut := s.adapterOut ++
        [{ header := 0x11000000#32 ||| BitVec.ofNat 32 s.r,
           samples := (ringContents s.cfg.inCap s.inBuf).take s.r }] }

/-- Rules R86 and R178: in P_DEMOD_WAIT, DEMOD_REQ completes. Its issue puts the request on the port; its answer counts
the iteration and hands every field of the response, at its place in the words, to P_CONSUME. Nothing else changes. -/
def Obligations.DemodReqCompletes : Prop :=
  ∀ (s : State) (n : BitVec 16) (xs : List Sample), s.phase = .pDemodWait →
    (s.awaiting = false → exec (.demodReq n xs) s =
      .next { s with
        awaiting := true
        adapterOut := s.adapterOut ++ [{ header := 0x1100#16 ++ n, samples := xs }] }) ∧
    (∀ (w0 w1 toff foff clkoff : Word) (sym bw : List Word) (rest : List Reply), s.awaiting = true →
      sym.length = s.cfg.nSym → bw.length = (s.cfg.b + 31) / 32 →
      s.demodIn = { words := w0 :: w1 :: toff :: foff :: clkoff :: (sym ++ bw) } :: rest →
      ∃ d : DemodRsp, exec (.demodReq n xs) s =
        .next { s with
          demodIn := rest, awaiting := false, phase := .pConsume d,
          iterCnt := BitVec.ofNat 8 (min (s.iterCnt.toNat + 1) 255) } ∧
        d.valid = w0.getLsbD 0 ∧ d.sync = w0.getLsbD 1 ∧ d.lock = w0.getLsbD 2 ∧
        d.nextR.toNat = w0.toNat / 2 ^ 16 ∧ d.snr = BitVec.ofNat 16 w1.toNat ∧
        d.toff = toff ∧ d.foff = foff ∧ d.clkoff = clkoff ∧ d.sym = sym ∧ d.bits.length = s.cfg.b ∧
        ∀ j, j < s.cfg.b → d.bits.getD j false = (bw.getD (j / 32) 0#32).getLsbD (j % 32))

/-- Rules R88 and R146: in P_REPAIR_WAIT the block sends all `2*B` bits of `PEND`, and the returned `2*B` bits replace
`PEND`, unchecked. Nothing else changes but the sequencer, which goes on to the decoder. -/
def Obligations.DecRepairCompletes : Prop :=
  ∀ (s : State) (d : DemodRsp) (bits : List Bool), s.phase = .pRepairWait d →
    (s.awaiting = false → s.statusIn = [] → s.schedule = [] →
      step s = .next { s with
        awaiting := true
        adapterOut := s.adapterOut ++ [{ header := 0x21000000#32, words := bitsToWords s.pend }] }) ∧
    (s.awaiting = false → exec (.decRepair bits) s =
      .next { s with
        awaiting := true
        adapterOut := s.adapterOut ++ [{ header := 0x21000000#32, words := bitsToWords bits }] }) ∧
    (∀ (bw : List Word) (rest : List Reply), s.awaiting = true → bw.length = (2 * s.cfg.b + 31) / 32 →
      s.decIn = { words := bw } :: rest →
      ∃ repaired : List Bool, exec (.decRepair bits) s =
        .next { s with decIn := rest, awaiting := false, pend := repaired, phase := .pDecodeWait d } ∧
        repaired.length = 2 * s.cfg.b ∧
        ∀ j, j < 2 * s.cfg.b → repaired.getD j false = (bw.getD (j / 32) 0#32).getLsbD (j % 32))

/-- Rules R147 and R154: in P_DECODE_WAIT the block counts one decoder call and sends `pack(PEND)`, whether or not the
output buffer has room. Its bytes travel four to a word, byte `k` in bits `8*(k mod 4)+7` down to `8*(k mod 4)` of word
`k / 4` (rule R85). -/
def Obligations.DecodeGetsPackedFrame : Prop :=
  (∀ (s : State) (d : DemodRsp), s.phase = .pDecodeWait d → s.awaiting = false → s.statusIn = [] → s.schedule = [] →
    2 * s.cfg.b = 8 * s.cfg.nbytes →
    step s = .next { s with
      awaiting := true
      decCnt := BitVec.ofNat 8 (min (s.decCnt.toNat + 1) 255)
      adapterOut := s.adapterOut ++
        [{ header := 0x22000000#32, words := bytesToWords (pack s.cfg.nbytes s.pend) }] }) ∧
  ∀ bytes : List Byte, (bytesToWords bytes).length = (bytes.length + 3) / 4 ∧
    ∀ k, k < bytes.length →
      ((bytesToWords bytes).getD (k / 4) 0#32).toNat / 2 ^ (8 * (k % 4)) % 2 ^ 8 = (bytes.getD k 0#8).toNat

/-- Rules R148, R149 and R153: the answer to DEC_DECODE. The audio is appended in order if it fits, otherwise
FRAME_DROP; with `ok = 0` nothing is appended and DECODE_FAIL is set. In each case `fsm` re-arms to WAIT_FIRST_HALF and
the iteration goes on to publish. -/
def Obligations.DecDecodeAnswers : Prop :=
  ∀ (s : State) (d : DemodRsp) (bytes : List Byte) (w : Word) (audio : List Sample) (rest : List Reply),
    s.phase = .pDecodeWait d → s.awaiting = true → s.decIn = { words := [w], samples := audio } :: rest →
    ringWf s.cfg.inCap s.inBuf = true → ringWf s.cfg.outCap s.outBuf = true →
    (w.getLsbD 0 = false → exec (.decDecode bytes) s =
      .next { s with
        decIn := rest, awaiting := false, fsm := .waitFirstHalf, phase := .pPublish d,
        cmdFlags := s.cmdFlags ||| 0x02#8 }) ∧
    (w.getLsbD 0 = true → audio.length = s.cfg.frameOut → s.outBuf.occ + s.cfg.frameOut > s.cfg.outCap →
      exec (.decDecode bytes) s =
      .next { s with
        decIn := rest, awaiting := false, fsm := .waitFirstHalf, phase := .pPublish d,
        cmdFlags := s.cmdFlags ||| 0x08#8 }) ∧
    (w.getLsbD 0 = true → audio.length = s.cfg.frameOut → s.outBuf.occ + s.cfg.frameOut ≤ s.cfg.outCap →
      ∃ t, exec (.decDecode bytes) s = .next t ∧
        t = { s with
              decIn := rest, awaiting := false, fsm := .waitFirstHalf, phase := .pPublish d, outBuf := t.outBuf } ∧
        ringContents s.cfg.outCap t.outBuf = ringContents s.cfg.outCap s.outBuf ++ audio)

/-- Rules R304 and R305: while an adapter has not answered, the block waits and does nothing, for any number of
steps. -/
def Obligations.SilentAdapterStallsBlock : Prop :=
  ∀ (s : State) (n : Nat), s.awaiting = true → s.statusIn = [] → s.schedule = [] →
    ((s.phase = .cDemodInit ∨ s.phase = .pDemodWait) ∧ s.demodIn = [] ∨
      (s.phase = .cDecInit ∨ (∃ d, s.phase = .pRepairWait d) ∨ ∃ d, s.phase = .pDecodeWait d) ∧ s.decIn = []) →
    Host.Core.run Sys2Proof.core n s = .next s

/-- The model's own reading of rule R306 (log entry 6): a response of the wrong length has no meaning, and the request
that takes it is refused by name. Nothing else is refused. The samples of a failed decode are ignored (rule R89).
That exec reads an answer in the same way in phases that never make the request is the model's choice (log entry 11). -/
def Obligations.OnlyMalformedResponsesRefused : Prop :=
  ∀ s : State,
    let bad (queue : List Reply) (malformed : Reply → Prop) : Prop :=
      s.awaiting = true ∧ ∃ y rest, queue = y :: rest ∧ malformed y
    let badInit (y : Reply) : Prop := y.words.length ≠ 1 ∨ y.samples ≠ []
    let badDemod (y : Reply) : Prop := y.words.length ≠ 5 + s.cfg.nSym + (s.cfg.b + 31) / 32 ∨ y.samples ≠ []
    let badRepair (y : Reply) : Prop := y.words.length ≠ (2 * s.cfg.b + 31) / 32 ∨ y.samples ≠ []
    let badDecode (y : Reply) : Prop :=
      y.words.length ≠ 1 ∨ (y.words.getD 0 0#32).getLsbD 0 = true ∧ y.samples.length ≠ s.cfg.frameOut
    (∀ r : Refusal, (exec .demodInit s = .refused r ↔ r = .malformedAdapterResponse ∧ bad s.demodIn badInit)) ∧
    (∀ (r : Refusal) (n : BitVec 16) (xs : List Sample),
      (exec (.demodReq n xs) s = .refused r ↔ r = .malformedAdapterResponse ∧ bad s.demodIn badDemod)) ∧
    (∀ r : Refusal, (exec .decInit s = .refused r ↔ r = .malformedAdapterResponse ∧ bad s.decIn badInit)) ∧
    (∀ (r : Refusal) (bits : List Bool),
      (exec (.decRepair bits) s = .refused r ↔ r = .malformedAdapterResponse ∧ bad s.decIn badRepair)) ∧
    (∀ (r : Refusal) (bytes : List Byte),
      (exec (.decDecode bytes) s = .refused r ↔ r = .malformedAdapterResponse ∧ bad s.decIn badDecode)) ∧
    (∀ (r : Refusal) (i : Instr), i.port = .command ∨ i.port = .status → exec i s ≠ .refused r)

/-! ### PUSH (43_session_commands.md §3, 42_demod_scheduler.md, 41_frame_sync_fsm.md) -/

/-- PUSH is accepted in IDLE and its response is delivered in RESPOND (rules R33, R200 and R210). That exec of PUSH
changes nothing in the phases of its adapter requests, before and after their issue, is the model's choice (log
entry 11): there the step runs the adapter request instead. -/
def Obligations.PushAcceptedAndDelivered : Prop :=
  ∀ (p : List Sample) (s : State),
    (s.phase = .idle → exec (.push p) s = .next { s with phase := .pAccept }) ∧
    (s.phase = .pDemodWait ∨ (∃ d, s.phase = .pRepairWait d) ∨ (∃ d, s.phase = .pDecodeWait d) →
      exec (.push p) s = .next s) ∧
    (∀ rsp, s.phase = .respond rsp →
      exec (.push p) s = .next { s with hostOut := s.hostOut ++ [rsp], cmdIn := s.cmdIn.tail, phase := .idle })

/-- Rules R211 and R212: a PUSH outside READY is answered NOT_READY with B = `sess`, and one that would overflow the
input buffer BACKPRESSURE; neither changes any state element. -/
def Obligations.PushRefusalsChangeNothing : Prop :=
  ∀ (p : List Sample) (s : State), s.phase = .pAccept →
    (s.sess = .none →
      exec (.push p) s = .next { s with phase := .respond { word := 0x06000000#32, payload := [] } }) ∧
    (s.sess = .failed →
      exec (.push p) s = .next { s with phase := .respond { word := 0x06000002#32, payload := [] } }) ∧
    (s.sess = .ready → s.inBuf.occ + s.cfg.nPush > s.cfg.inCap →
      exec (.push p) s = .next { s with phase := .respond { word := 0x03000000#32, payload := [] } })

/-- Rules R213 and R222: an accepted PUSH clears its accumulators and then appends its payload to `IN`, `p[0]` first,
changing nothing else. -/
def Obligations.PushClearsAndAppends : Prop :=
  ∀ (p : List Sample) (s : State), s.phase = .pAccept → s.sess = .ready →
    s.inBuf.occ + s.cfg.nPush ≤ s.cfg.inCap → p.length = s.cfg.nPush →
    ringWf s.cfg.inCap s.inBuf = true → ringWf s.cfg.outCap s.outBuf = true →
    ∃ s1 t, exec (.push p) s = .next s1 ∧
      s1 = { s with cmdFlags := 0#8, iterCnt := 0#8, decCnt := 0#8, phase := .pAppend } ∧
      exec (.push p) s1 = .next t ∧ t = { s1 with inBuf := t.inBuf, phase := .pLoopTest } ∧
      ringContents s.cfg.inCap t.inBuf = ringContents s.cfg.inCap s.inBuf ++ p

/-- Rule R171: the cadence loop goes on exactly while `in_occ >= r`. -/
def Obligations.LoopRunsWhileFilled : Prop :=
  ∀ (p : List Sample) (s : State), s.phase = .pLoopTest →
    (s.r ≤ s.inBuf.occ → exec (.push p) s = .next { s with phase := .pDemodWait }) ∧
    (s.inBuf.occ < s.r → exec (.push p) s = .next { s with phase := .pDrain })

/-- Rules R174 to R177: after the answer the `r` samples handed over are consumed. A valid response sets `r` and goes on
to the state machine step. An invalid one sets DEMOD_FAIL and nothing else, and the loop test is next. -/
def Obligations.ConsumeThenValidity : Prop :=
  ∀ (p : List Sample) (s : State) (d : DemodRsp), s.phase = .pConsume d → s.r ≤ s.inBuf.occ →
    ringWf s.cfg.inCap s.inBuf = true → ringWf s.cfg.outCap s.outBuf = true →
    ∃ t, exec (.push p) s = .next t ∧
      ringContents s.cfg.inCap t.inBuf = (ringContents s.cfg.inCap s.inBuf).drop s.r ∧
      t.inBuf.mem = s.inBuf.mem ∧
      (d.valid = true ∧ s.cfg.ninMin ≤ d.nextR.toNat ∧ d.nextR.toNat ≤ s.cfg.ninMax →
        t = { s with inBuf := t.inBuf, r := d.nextR.toNat, phase := .pFsm d }) ∧
      (d.valid = false ∨ d.nextR.toNat < s.cfg.ninMin ∨ s.cfg.ninMax < d.nextR.toNat →
        t = { s with inBuf := t.inBuf, cmdFlags := s.cmdFlags ||| 0x01#8, phase := .pLoopTest })

/-- Rule R262: InternalFault ends the command at once with `sess` FAILED and INTERNAL_FAULT carrying the check's number,
and every other state element keeps the value it held when the check failed. Check 1 is CONSUME_FRONT past the
occupancy, check 3 `pack` without whole bytes in P_DECODE_WAIT, and check 2 an occupancy of either buffer above its
capacity after a buffer operation, here after PUSH's append, whose effect on `IN` stands. -/
def Obligations.InternalFaultEndsCommand : Prop :=
  ∀ (p : List Sample) (s : State),
    (∀ d, s.phase = .pConsume d → s.inBuf.occ < s.r →
      exec (.push p) s = .next { s with
        sess := .failed, phase := .respond { word := 0x08000001#32, payload := [] } }) ∧
    (s.phase = .pAppend →
      (ringAppend s.cfg.inCap s.inBuf p).2.occ > s.cfg.inCap ∨ s.outBuf.occ > s.cfg.outCap →
      exec (.push p) s = .next { s with
        inBuf := (ringAppend s.cfg.inCap s.inBuf p).2
        sess := .failed, phase := .respond { word := 0x08000002#32, payload := [] } }) ∧
    (∀ d bytes, s.phase = .pDecodeWait d → s.awaiting = false → 2 * s.cfg.b ≠ 8 * s.cfg.nbytes →
      exec (.decDecode bytes) s = .next { s with
        sess := .failed, phase := .respond { word := 0x08000003#32, payload := [] } })

/-- Rules R132 to R135: in UNSYNCED a silence block of `N_NOM` zeros is appended if it fits, else SIL_DROP is set; then
`fsm` becomes WAIT_FIRST_HALF exactly when `lock = 1` and the SNR is above the threshold as a signed number. Nothing
else changes: `sync` and `bits` are not read and `PEND` is not written. -/
def Obligations.UnsyncedStep : Prop :=
  ∀ (p : List Sample) (s : State) (d : DemodRsp), s.phase = .pFsm d → s.fsm = .unsynced →
    ringWf s.cfg.inCap s.inBuf = true → ringWf s.cfg.outCap s.outBuf = true →
    ∃ t, exec (.push p) s = .next t ∧
      (d.lock = true ∧ d.snr.toInt > s.cfg.snrThr.toInt → t.fsm = .waitFirstHalf) ∧
      (¬ (d.lock = true ∧ d.snr.toInt > s.cfg.snrThr.toInt) → t.fsm = .unsynced) ∧
      (s.outBuf.occ + s.cfg.nNom ≤ s.cfg.outCap →
        t = { s with fsm := t.fsm, outBuf := t.outBuf, phase := .pPublish d } ∧
        ringContents s.cfg.outCap t.outBuf =
          ringContents s.cfg.outCap s.outBuf ++ List.replicate s.cfg.nNom 0#16) ∧
      (s.outBuf.occ + s.cfg.nNom > s.cfg.outCap →
        t = { s with fsm := t.fsm, cmdFlags := s.cmdFlags ||| 0x04#8, phase := .pPublish d })

/-- Rules R136 to R138: in WAIT_FIRST_HALF lock loss forces UNSYNCED; a sync bit 0 under lock captures the first half
and leaves the second half of `PEND` as it was; a sync bit 1 under lock changes nothing. -/
def Obligations.WaitFirstStep : Prop :=
  ∀ (p : List Sample) (s : State) (d : DemodRsp), s.phase = .pFsm d → s.fsm = .waitFirstHalf →
    (d.lock = false → exec (.push p) s = .next { s with fsm := .unsynced, phase := .pPublish d }) ∧
    (d.lock = true → d.sync = true → exec (.push p) s = .next { s with phase := .pPublish d }) ∧
    (d.lock = true → d.sync = false → d.bits.length = s.cfg.b → s.pend.length = 2 * s.cfg.b →
      ∃ t, exec (.push p) s = .next t ∧
        t = { s with fsm := .waitSecondHalf, pend := t.pend, phase := .pPublish d } ∧
        t.pend.length = 2 * s.cfg.b ∧
        (∀ j, j < s.cfg.b → t.pend.getD j false = d.bits.getD j false) ∧
        (∀ j, s.cfg.b ≤ j → j < 2 * s.cfg.b → t.pend.getD j false = s.pend.getD j false))

/-- Rules R139 to R141: in WAIT_SECOND_HALF lock loss forces UNSYNCED whatever the sync bit; a sync bit 0 under lock
re-arms without a capture; a sync bit 1 under lock captures the second half, keeps the first, and starts COMPLETE_FRAME
with its repair request. -/
def Obligations.WaitSecondStep : Prop :=
  ∀ (p : List Sample) (s : State) (d : DemodRsp), s.phase = .pFsm d → s.fsm = .waitSecondHalf →
    (d.lock = false → exec (.push p) s = .next { s with fsm := .unsynced, phase := .pPublish d }) ∧
    (d.lock = true → d.sync = false →
      exec (.push p) s = .next { s with fsm := .waitFirstHalf, phase := .pPublish d }) ∧
    (d.lock = true → d.sync = true → d.bits.length = s.cfg.b → s.pend.length = 2 * s.cfg.b →
      ∃ t, exec (.push p) s = .next t ∧ t = { s with pend := t.pend, phase := .pRepairWait d } ∧
        t.pend.length = 2 * s.cfg.b ∧
        (∀ j, j < s.cfg.b → t.pend.getD j false = s.pend.getD j false) ∧
        (∀ j, j < s.cfg.b → t.pend.getD (s.cfg.b + j) false = d.bits.getD j false))

/-- Rules R185 and R188: the publication writes the whole snapshot in one step, with `fsm` as the step left it and
`seq` one higher modulo 2^32, and changes nothing else. -/
def Obligations.PublishWritesWholeSnapshot : Prop :=
  ∀ (p : List Sample) (s : State) (d : DemodRsp), s.phase = .pPublish d →
    exec (.push p) s = .next { s with
      phase := .pLoopTest
      snap :=
        { lock := d.lock, snr := d.snr, toff := d.toff, foff := d.foff, clkoff := d.clkoff, sym := d.sym,
          fsmPub := s.fsm, seq := BitVec.ofNat 32 ((s.snap.seq.toNat + 1) % 2 ^ 32) } }

/-- Rules R215 and R216: the drain returns the `N_DRAIN` oldest samples of `OUT` with AUDIO, or leaves `OUT` as it was
with NO_OUTPUT_YET; FLAGS, A and B report the whole PUSH either way. -/
def Obligations.DrainAnswersPush : Prop :=
  ∀ (p : List Sample) (s : State), s.phase = .pDrain →
    ringWf s.cfg.inCap s.inBuf = true → ringWf s.cfg.outCap s.outBuf = true →
    (s.outBuf.occ < s.cfg.nDrain → exec (.push p) s = .next { s with
      phase := .respond { word := 0x02#8 ++ s.cmdFlags ++ s.iterCnt ++ s.decCnt, payload := [] } }) ∧
    (s.cfg.nDrain ≤ s.outBuf.occ → ∃ t, exec (.push p) s = .next t ∧
      t = { s with
            outBuf := t.outBuf
            phase := .respond
              { word := 0x01#8 ++ s.cmdFlags ++ s.iterCnt ++ s.decCnt,
                payload := (ringContents s.cfg.outCap s.outBuf).take s.cfg.nDrain } } ∧
      ringContents s.cfg.outCap t.outBuf = (ringContents s.cfg.outCap s.outBuf).drop s.cfg.nDrain)

/-! ### The status port (44_status_port.md) -/

/-- Every READ completes in every state, and changes nothing but the status port: its request leaves and its words go
out (rules R231 to R243). -/
def Obligations.ReadsComplete : Prop :=
  ∀ s : State,
    let answer (ws : List Word) : Host.Outcome State Fault Refusal :=
      .next { s with statusIn := s.statusIn.tail, statusOut := s.statusOut ++ [ws] }
    exec .readSess s = answer [registerValue s 0x00] ∧ exec .readSync s = answer [registerValue s 0x01] ∧
    exec .readFsm s = answer [registerValue s 0x02] ∧ exec .readSeq s = answer [registerValue s 0x03] ∧
    exec .readLock s = answer [registerValue s 0x04] ∧ exec .readSnr s = answer [registerValue s 0x05] ∧
    exec .readToff s = answer [registerValue s 0x06] ∧ exec .readFoff s = answer [registerValue s 0x07] ∧
    exec .readClkoff s = answer [registerValue s 0x08] ∧ exec .readNsym s = answer [registerValue s 0x09] ∧
    (∀ k, k < s.cfg.nSym → exec (.readSym k) s = answer [registerValue s (0x10 + k)]) ∧
    (∀ addr, (Instr.readReserved addr).WellFormed s.cfg →
      exec (.readReserved addr) s = answer [registerValue s addr.toNat]) ∧
    exec .readSnapshot s = answer
      ([s.snap.seq, registerValue s 0x01, registerValue s 0x02, registerValue s 0x04, registerValue s 0x05,
        s.snap.toff, s.snap.foff, s.snap.clkoff] ++ s.snap.sym)

/-- Rules R81 and R82: a READ_WORD of any of the 256 addresses answers the register map's value, reserved addresses 0.
It does so in every state, whatever the sequencer is doing (rule R230). -/
def Obligations.ReadWordFollowsRegisterMap : Prop :=
  ∀ (s : State) (addr : BitVec 8) (rest : List Word) (sched : List Agent),
    s.statusIn = (0#24 ++ addr) :: rest → s.schedule = .reader :: sched →
    step s = .next { s with
      schedule := sched, statusIn := rest, statusOut := s.statusOut ++ [[registerValue s addr.toNat]] }

/-- Rule R243: no status request changes any state of the block, whatever word it carries. A reader's move always
succeeds, and touches only the status port and the schedule. An invalid request word (rule R80) is answered with the
single word 0. -/
def Obligations.StatusReadsChangeNothing : Prop :=
  ∀ (s : State) (sched : List Agent), s.schedule = .reader :: sched →
    ∃ t, step s = .next t ∧
      t = { s with schedule := sched, statusIn := s.statusIn.tail, statusOut := t.statusOut } ∧
      (∀ w rest, s.statusIn = w :: rest → ¬ ValidStatusWord w → t.statusOut = s.statusOut ++ [[0#32]])

/-! ### One step -/

/-- A step runs the transaction that stands at the moving agent's port: for a reader the decoded status request, for
the sequencer the adapter request of its phase, or else the decoded command at the command port. Taking the entry off
the schedule is all that the step adds. With an empty schedule a waiting status request goes before the sequencer: that
is the model's choice (log entry 4), since the spec gives the agents no order. -/
def Obligations.StepRunsDecodedTransaction : Prop :=
  ∀ (s : State) (i : Instr) (sched : List Agent),
    (∀ w rest, s.statusIn = w :: rest → decode .status s.cfg { header := w } = .ok i →
      (s.schedule = .reader :: sched → step s = exec i { s with schedule := sched }) ∧
      (s.schedule = [] → step s = exec i s)) ∧
    (adapterInstr s = some i →
      (s.schedule = .sequencer :: sched → step s = exec i { s with schedule := sched }) ∧
      (s.schedule = [] → s.statusIn = [] → step s = exec i s)) ∧
    (∀ m rest, adapterInstr s = none → s.cmdIn = m :: rest → decode .command s.cfg m = .ok i →
      (s.schedule = .sequencer :: sched → step s = exec i { s with schedule := sched }) ∧
      (s.schedule = [] → s.statusIn = [] → step s = exec i s))

/-! ### The invariant and what follows from it -/

/-- The invariant of rules R20, R30 and R36 holds at power-on reset, in every configuration, and so at `State.reset`,
which is the reset state of the configuration the model chose (log entry 1). -/
def Obligations.ResetMeetsInvariant : Prop := Inv State.reset ∧ ∀ c : Config, Inv (State.resetWith c)

/-- Every step keeps the invariant, from every state that meets it. -/
def Obligations.StepKeepsInvariant : Prop :=
  ∀ s t : State, Inv s → step s = .next t → Inv t

/-- From a state that meets the invariant a step never faults, and a step that is refused is refused with
`malformedAdapterResponse`. Both names are the model's choice: the refusal of log entry 6 and the fault
(`commandLost`) of log entry 7. When the refusal happens, OnlyMalformedResponsesRefused says. -/
def Obligations.InvariantExcludesFaults : Prop :=
  ∀ s : State, Inv s → (∃ t, step s = .next t) ∨ step s = .refused .malformedAdapterResponse

/-- Rules R262 and R212: from a state that meets the invariant no step raises InternalFault or answers BACKPRESSURE. -/
def Obligations.NoInternalFaultOrBackpressure : Prop :=
  ∀ (s t : State) (rsp : Response), Inv s → step s = .next t → t.phase = .respond rsp →
    opField rsp.word ≠ 0x08#8 ∧ opField rsp.word ≠ 0x03#8

/-- Rules R30, R36 and R181: whenever the block is IDLE in a READY session, the published state machine state is `fsm`,
`in_occ < r` and `in_occ <= NIN_MAX - 1`, at every state that a run from a state meeting the invariant reaches. -/
def Obligations.IdleReadyFacts : Prop :=
  ∀ (c : Config) (s t : State) (n : Nat), Inv s → s.cfg = c → Host.Core.run Sys2Proof.core n s = .next t →
    t.cfg = c ∧
    (t.phase = .idle → t.sess = .ready →
      t.snap.fsmPub = t.fsm ∧ t.inBuf.occ < t.r ∧ t.inBuf.occ ≤ c.ninMax - 1 ∧
      t.inBuf.occ ≤ c.inCap ∧ t.outBuf.occ ≤ c.outCap)

/-! ### Whole-machine rules -/

/-- Rule R186: only a publication and CREATE's reset write `SNAP`. A publication raises `seq` by one. -/
def Obligations.SnapshotWriters : Prop :=
  ∀ s t : State, step s = .next t → t.snap ≠ s.snap →
    (s.phase = .cReset ∧ t.phase = .cCheck ∧ t.snap = Snapshot.zero s.cfg) ∨
    (∃ d, s.phase = .pPublish d ∧ t.phase = .pLoopTest ∧ t.snap.seq = s.snap.seq + 1#32 ∧ t.snap.fsmPub = s.fsm)

/-- Rules R22 and R267: `sess` becomes READY only by DEC_INIT's successful answer in CREATE (the answer taken has
`ok = 1`, and the response is OK), the only way out of FAILED; it becomes FAILED only with CONFIG_FAULT, INIT_FAIL or
INTERNAL_FAULT; and it never becomes NONE again. -/
def Obligations.SessionStateWriters : Prop :=
  ∀ s t : State, step s = .next t → t.sess ≠ s.sess →
    (t.sess = .ready ∧ s.phase = .cDecInit ∧ s.awaiting = true ∧
      (∃ w : Word, s.decIn = { words := [w] } :: t.decIn ∧ w.getLsbD 0 = true) ∧
      t.phase = .respond { word := 0x00000000#32, payload := [] }) ∨
    (t.sess = .failed ∧ ∃ rsp, t.phase = .respond rsp ∧
      (opField rsp.word = 0x04#8 ∨ opField rsp.word = 0x05#8 ∨ opField rsp.word = 0x08#8))

/-- Rule R23: only the state machine step (with the decoder answer that ends it) and CREATE's reset write `fsm`. -/
def Obligations.FsmWriters : Prop :=
  ∀ s t : State, step s = .next t → t.fsm ≠ s.fsm →
    s.phase = .cReset ∨ (∃ d, s.phase = .pFsm d) ∨ (∃ d, s.phase = .pDecodeWait d)

/-- Rule R156: a state machine step with `lock = 0` leaves UNSYNCED in every state, and outside UNSYNCED it appends
nothing, captures nothing and asks the decoder for nothing. -/
def Obligations.LockLossForcesUnsynced : Prop :=
  ∀ (p : List Sample) (s : State) (d : DemodRsp), s.phase = .pFsm d → d.lock = false →
    ringWf s.cfg.inCap s.inBuf = true → ringWf s.cfg.outCap s.outBuf = true →
    ∃ t, exec (.push p) s = .next t ∧ t.fsm = .unsynced ∧ t.phase = .pPublish d ∧ t.pend = s.pend ∧
      (s.fsm ≠ .unsynced → t = { s with fsm := .unsynced, phase := .pPublish d })

/-- Rule R155, step by step: WAIT_SECOND_HALF is entered only from WAIT_FIRST_HALF, by a state machine step on a response
with `lock = 1` and `sync = 0`, whose bits become the first half of `PEND`; a state machine step in WAIT_SECOND_HALF
leaves that state or starts COMPLETE_FRAME; COMPLETE_FRAME starts only there, on `lock = 1` and `sync = 1`; and a
decoder call is issued only inside it. -/
def Obligations.DecodeOnlyAfterBothHalves : Prop :=
  ∀ s t : State, Inv s → step s = .next t →
    (t.fsm = .waitSecondHalf → s.fsm ≠ .waitSecondHalf →
      s.fsm = .waitFirstHalf ∧
      ∃ d, s.phase = .pFsm d ∧ d.lock = true ∧ d.sync = false ∧ t.pend.take s.cfg.b = d.bits) ∧
    (∀ d, s.phase = .pFsm d → s.fsm = .waitSecondHalf → t.phase ≠ s.phase →
      t.fsm ≠ .waitSecondHalf ∨ t.phase = .pRepairWait d) ∧
    (∀ d, t.phase = .pRepairWait d → t.phase ≠ s.phase →
      s.phase = .pFsm d ∧ s.fsm = .waitSecondHalf ∧ d.lock = true ∧ d.sync = true) ∧
    (∀ d, t.phase = .pDecodeWait d → t.phase ≠ s.phase → s.phase = .pRepairWait d) ∧
    (t.decCnt ≠ s.decCnt → s.phase = .cReset ∨ s.phase = .pAccept ∨ ∃ d, s.phase = .pDecodeWait d) ∧
    (∀ m, t.adapterOut = s.adapterOut ++ [m] → opField m.header = 0x22#8 → ∃ d, s.phase = .pDecodeWait d)

/-- Rule R63: at most one adapter request is outstanding. A request is issued only when none is outstanding, and no
other request goes out before its response has been taken. -/
def Obligations.OneOutstandingRequest : Prop :=
  ∀ s t : State, step s = .next t →
    (t.adapterOut = s.adapterOut ∨
      s.awaiting = false ∧ t.awaiting = true ∧ ∃ m, t.adapterOut = s.adapterOut ++ [m]) ∧
    (s.awaiting = true → t.awaiting = false →
      (∃ y, s.demodIn = y :: t.demodIn ∧ t.decIn = s.decIn) ∨ (∃ y, s.decIn = y :: t.decIn ∧ t.demodIn = s.demodIn)) ∧
    (t.demodIn ≠ s.demodIn ∨ t.decIn ≠ s.decIn → s.awaiting = true ∧ t.awaiting = false)

/-- Rules R200 and R221: a command leaves its port only with the delivery of its one response, and then the block is
IDLE. -/
def Obligations.CommandHeldUntilResponse : Prop :=
  ∀ s t : State, step s = .next t → t.cmdIn ≠ s.cmdIn ∨ t.hostOut ≠ s.hostOut →
    ∃ rsp, s.phase = .respond rsp ∧ t.phase = .idle ∧ t.cmdIn = s.cmdIn.tail ∧ t.hostOut = s.hostOut ++ [rsp]

/-- Rule R109: only CREATE's reset and the sequencer's own operations of rule R108 reach the sample buffers: PUSH's
append and the consume change `IN`; the silence block, the decoded frame and the drain change `OUT`. -/
def Obligations.BufferWriters : Prop :=
  ∀ s t : State, step s = .next t →
    (t.inBuf ≠ s.inBuf → s.phase = .cReset ∨ s.phase = .pAppend ∨ ∃ d, s.phase = .pConsume d) ∧
    (t.outBuf ≠ s.outBuf →
      s.phase = .cReset ∨ s.phase = .pDrain ∨ (∃ d, s.phase = .pFsm d ∧ s.fsm = .unsynced) ∨
        ∃ d, s.phase = .pDecodeWait d)

/-- Rule R9: the configuration is a constant of the instance. -/
def Obligations.ConfigurationConstant : Prop :=
  ∀ (s t : State) (n : Nat), Host.Core.run Sys2Proof.core n s = .next t → t.cfg = s.cfg

/-- Rules R142 and R187: the block's behaviour reads only `valid`, `next_r`, `sync`, `lock`, `snr` and `bits` of a
response. Two iterations whose responses agree there, and in a WAIT state even without `snr`, take the same state
machine step: they differ only in the response they carry on to the publication. -/
def Obligations.OpaqueStatisticsNeverSteer : Prop :=
  ∀ (s : State) (d e : DemodRsp), d.valid = e.valid → d.nextR = e.nextR → d.sync = e.sync → d.lock = e.lock →
    d.bits = e.bits → (d.snr = e.snr ∨ s.fsm ≠ .unsynced) →
    (fsmStep d s = fsmStep e s ∨
      ∃ p q, (fsmStep d s).phase = p ∧ (fsmStep e s).phase = q ∧
        (p = .pPublish d ∧ q = .pPublish e ∨ p = .pRepairWait d ∧ q = .pRepairWait e) ∧
        fsmStep d s = { fsmStep e s with phase := p }) ∧
    responseValid s.cfg d = responseValid s.cfg e

/-! ### PUSH as a whole -/

/-- The sequencer, phase by phase on the ring buffers, does what PUSH's pseudocode (rules R210 and R213 to R222, with
R101 to R216) says on sequences: from an IDLE state that meets the invariant it returns to IDLE with the pseudocode's
session, its response on the host port, exactly its adapter requests issued in order (`DemodCall(FRONT(IN, r))`,
`RepairCall(PEND)`, `DecodeCall(pack(PEND))`), and exactly its share of the adapters' answers taken. -/
def Obligations.PushRefinesPseudocode : Prop :=
  ∀ (s : State) (p : List Sample) (rest : List Packet) (a : Session) (rsp : Response) (demod dec : List Reply),
    Inv s → PushAtPort s p rest →
    pushPass s.cfg p (sessionOf s) s.demodIn s.decIn = some (a, rsp, demod, dec) →
    ∃ n t, Host.Core.run Sys2Proof.core n s = .next t ∧ t.phase = .idle ∧ t.sess = .ready ∧ sessionOf t = a ∧
      t.adapterOut = a.asked ∧ t.hostOut = s.hostOut ++ [rsp] ∧ t.cmdIn = rest ∧ t.demodIn = demod ∧ t.decIn = dec

/-- Rules R179 and R180: an accepted PUSH completes within a bounded number of steps when the adapters answer. With
`K = floor((NIN_MAX - 1 + N_PUSH) / NIN_MIN)` it issues at most `K` DEMOD_REQs, and with `K` well-formed demodulator
answers and `K` well-formed pairs of decoder answers waiting it is IDLE again within `6 + 10*K` steps, having delivered
one AUDIO response with `N_DRAIN` samples or one NO_OUTPUT_YET response without. -/
def Obligations.PushCompletesInBoundedSteps : Prop :=
  ∀ (s : State) (p : List Sample) (rest : List Packet) (k : Nat),
    Inv s → PushAtPort s p rest → k = (s.cfg.ninMax - 1 + s.cfg.nPush) / s.cfg.ninMin →
    k ≤ s.demodIn.length → (∀ y ∈ s.demodIn.take k, (parseDemod s.cfg y).isSome = true) →
    2 * k ≤ s.decIn.length →
    (∀ j, j < k → ∃ y z, s.decIn[2 * j]? = some y ∧ s.decIn[2 * j + 1]? = some z ∧
      (parseRepair s.cfg y).isSome = true ∧ (parseDecode s.cfg z).isSome = true) →
    ∃ n t rsp, n ≤ 6 + 10 * k ∧ Host.Core.run Sys2Proof.core n s = .next t ∧ t.phase = .idle ∧
      t.hostOut = s.hostOut ++ [rsp] ∧ t.cmdIn = rest ∧ s.demodIn.length ≤ t.demodIn.length + k ∧
      (opField rsp.word = 0x01#8 ∧ rsp.payload.length = s.cfg.nDrain ∨
        opField rsp.word = 0x02#8 ∧ rsp.payload = [])
end

