-- ==== Sys2Proof/Laws/Channel.lean ====
section
/-! SUPPORT. The byte-wide channel: each reader of bytes undoes its writer, and a block's bytes have their length. -/

namespace Sys2Proof

/-- A word is its four bytes put together again (rule R54). -/
theorem wordOfBytes_wordBytes (w : Word) :
    wordOfBytes (w.extractLsb' 0 8) (w.extractLsb' 8 8) (w.extractLsb' 16 8) (w.extractLsb' 24 8) = w := by
  refine BitVec.eq_of_getLsbD_eq fun k hk => ?_
  simp only [wordOfBytes, BitVec.getLsbD_append, BitVec.getLsbD_extractLsb']
  split_ifs <;> simp only [show k - 8 - 8 - 8 < 8 by omega, *, decide_true, Bool.true_and] <;> congr 1 <;> omega

/-- A sample is its two bytes put together again (rule R53). -/
theorem sampleOfBytes_sampleBytes (x : Sample) : x.extractLsb' 8 8 ++ x.extractLsb' 0 8 = x := by
  refine BitVec.eq_of_getLsbD_eq fun k hk => ?_
  simp only [BitVec.getLsbD_append, BitVec.getLsbD_extractLsb']
  split_ifs <;> simp only [show k - 8 < 8 by omega, *, decide_true, Bool.true_and] <;> congr 1 <;> omega

/-- The bytes of a sequence of words read back as the words (rule R54). -/
theorem wordsOfBytes_wordBlockBytes (ws : List Word) : wordsOfBytes (wordBlockBytes ws) = some ws := by
  induction ws with
  | nil => rfl
  | cons w ws ih =>
    simp only [wordBlockBytes] at ih
    simp [wordBlockBytes, wordBytes, wordsOfBytes, ih, wordOfBytes_wordBytes]

/-- The bytes of a sample block read back as the samples (rule R53). -/
theorem samplesOfBytes_sampleBlockBytes (xs : List Sample) : samplesOfBytes (sampleBlockBytes xs) = some xs := by
  induction xs with
  | nil => rfl
  | cons x xs ih =>
    simp only [sampleBlockBytes] at ih
    simp [sampleBlockBytes, sampleBytes, samplesOfBytes, ih, sampleOfBytes_sampleBytes]

theorem wordBlockBytes_length (ws : List Word) : (wordBlockBytes ws).length = 4 * ws.length := by
  induction ws with
  | nil => rfl
  | cons w ws ih =>
    simp only [wordBlockBytes] at ih
    simp [wordBlockBytes, wordBytes, ih]
    omega

theorem sampleBlockBytes_length (xs : List Sample) : (sampleBlockBytes xs).length = 2 * xs.length := by
  induction xs with
  | nil => rfl
  | cons x xs ih =>
    simp only [sampleBlockBytes] at ih
    simp [sampleBlockBytes, sampleBytes, ih]
    omega

/-- Byte `k` of word `i` stands at `4*i + k` (rule R54). -/
theorem wordBlockBytes_getD (ws : List Word) {i k : Nat} (hi : i < ws.length) (hk : k < 4) :
    (wordBlockBytes ws).getD (4 * i + k) 0#8 = (ws.getD i 0#32).extractLsb' (8 * k) 8 := by
  induction ws generalizing i with
  | nil => simp at hi
  | cons w ws ih =>
    have e : wordBlockBytes (w :: ws) = wordBytes w ++ wordBlockBytes ws := rfl
    cases i with
    | zero => rw [e]; interval_cases k <;> rfl
    | succ i =>
      rw [e, List.getD_append_right _ _ _ _ (by simp [wordBytes]; omega),
        show 4 * (i + 1) + k - (wordBytes w).length = 4 * i + k by simp [wordBytes]; omega,
        ih (by simpa using hi)]
      rfl

/-- Byte `k` of sample `j` stands at `2*j + k` (rule R53). -/
theorem sampleBlockBytes_getD (xs : List Sample) {j k : Nat} (hj : j < xs.length) (hk : k < 2) :
    (sampleBlockBytes xs).getD (2 * j + k) 0#8 = (xs.getD j 0#16).extractLsb' (8 * k) 8 := by
  induction xs generalizing j with
  | nil => simp at hj
  | cons x xs ih =>
    have e : sampleBlockBytes (x :: xs) = sampleBytes x ++ sampleBlockBytes xs := rfl
    cases j with
    | zero => rw [e]; interval_cases k <;> rfl
    | succ j =>
      rw [e, List.getD_append_right _ _ _ _ (by simp [sampleBytes]; omega),
        show 2 * (j + 1) + k - (sampleBytes x).length = 2 * j + k by simp [sampleBytes]; omega,
        ih (by simpa using hj)]
      rfl

namespace Machine

/-- A word and then samples read back (rules R53 and R54). -/
theorem wordThenSamples_bytes (w : Word) (xs : List Sample) :
    wordThenSamples (wordBytes w ++ sampleBlockBytes xs) = .ok (w, xs) := by
  simp [wordThenSamples, wordBytes, samplesOfBytes_sampleBlockBytes, wordOfBytes_wordBytes]

/-- A DEC_DECODE response is a word and then samples (rule R89). -/
theorem replyCarriesSamples_decDecode (bytes : List Byte) : replyCarriesSamples (.decDecode bytes) = true := by
  simp only [replyCarriesSamples, encode]
  decide

theorem replyCarriesSamples_decRepair (bits : List Bool) : replyCarriesSamples (.decRepair bits) = false := by
  simp only [replyCarriesSamples, encode]
  decide

theorem replyCarriesSamples_demodReq (r : BitVec 16) (xs : List Sample) :
    replyCarriesSamples (.demodReq r xs) = false := by
  have e : opField (0x11#8 ++ 0#8 ++ r) = 0x11#8 := by
    refine BitVec.eq_of_getLsbD_eq fun k hk => ?_
    simp only [opField, BitVec.getLsbD_append, BitVec.getLsbD_extractLsb']
    rw [if_neg (by omega), if_neg (by omega), show 24 + k - 16 - 8 = k by omega]
    simp [hk]
  simp only [replyCarriesSamples, encode, e]
  decide

end Machine

end Sys2Proof
end

