-- ==== Sys2Proof/Laws/Ring.lean ====
section
/-! SUPPORT. The ring buffers: every operation keeps the good form of `ringWf`, and the reset state has it. -/

namespace Sys2Proof.Machine

theorem ringWf_iff {cap : Nat} {b : Ring} :
    ringWf cap b = true ↔ b.mem.length = cap ∧ (b.head < cap ∨ b.head = 0) ∧ b.occ ≤ cap := by
  simp [ringWf, and_assoc]

@[simp] theorem ringStore_length (cap : Nat) (mem : List Sample) (pos : Nat) (v : List Sample) :
    (ringStore cap mem pos v).length = mem.length := by
  induction v generalizing mem pos with
  | nil => rfl
  | cons x xs ih => simp [ringStore, ih]

@[simp] theorem ringContents_length (cap : Nat) (b : Ring) : (ringContents cap b).length = b.occ := by
  simp [ringContents]

@[simp] theorem ringFront_length (cap : Nat) (b : Ring) (n : Nat) : (ringFront cap b n).length = n := by
  simp [ringFront]

/-- Everything APPEND can do (rules R101 and R102). -/
theorem ringAppend_cases (cap : Nat) (b : Ring) (v : List Sample) :
    (b.occ + v.length > cap ∧ ringAppend cap b v = (false, b)) ∨
    (b.occ + v.length ≤ cap ∧ ringAppend cap b v =
      (true, { b with mem := ringStore cap b.mem (b.head + b.occ) v, occ := b.occ + v.length })) := by
  unfold ringAppend
  split
  · exact .inl ⟨‹_›, rfl⟩
  · exact .inr ⟨by omega, rfl⟩

/-- Everything CONSUME_FRONT can do (rule R103). -/
theorem ringConsume_cases (cap : Nat) (b : Ring) (n : Nat) :
    (n > b.occ ∧ ringConsume cap b n = none) ∨ (n ≤ b.occ ∧ ringConsume cap b n = some (ringSkip cap b n)) := by
  unfold ringConsume
  split
  · exact .inl ⟨‹_›, rfl⟩
  · exact .inr ⟨by omega, rfl⟩

/-- Everything DRAIN can do (rules R105 and R106). -/
theorem ringDrain_cases (cap : Nat) (b : Ring) (c : Nat) :
    (b.occ < c ∧ ringDrain cap b c = none) ∨
    (c ≤ b.occ ∧ ringDrain cap b c = some (ringFront cap b c, ringSkip cap b c)) := by
  unfold ringDrain
  split
  · exact .inr ⟨‹_›, rfl⟩
  · exact .inl ⟨by omega, rfl⟩

theorem ringAppend_wf {cap : Nat} {b : Ring} (v : List Sample) (h : ringWf cap b = true) :
    ringWf cap (ringAppend cap b v).2 = true := by
  obtain ⟨_, e⟩ | ⟨_, e⟩ := ringAppend_cases cap b v <;> rw [e]
  · exact h
  · rw [ringWf_iff] at *
    exact ⟨by simp [h.1], h.2.1, by assumption⟩

theorem ringSkip_wf {cap : Nat} {b : Ring} {n : Nat} (hn : n ≤ b.occ) (h : ringWf cap b = true) :
    ringWf cap (ringSkip cap b n) = true := by
  rw [ringWf_iff] at *
  obtain ⟨hl, hh, ho⟩ := h
  refine ⟨hl, ?_, by simp only [ringSkip]; omega⟩
  by_cases hc : cap = 0
  · right
    simp only [ringSkip, hc, Nat.mod_zero]
    omega
  · exact .inl (Nat.mod_lt _ (Nat.pos_of_ne_zero hc))

theorem ringConsume_wf {cap : Nat} {b b' : Ring} {n : Nat} (h : ringWf cap b = true)
    (e : ringConsume cap b n = some b') : ringWf cap b' = true := by
  obtain ⟨_, e'⟩ | ⟨hn, e'⟩ := ringConsume_cases cap b n <;> rw [e'] at e
  · cases e
  · cases e
    exact ringSkip_wf hn h

theorem ringDrain_wf {cap : Nat} {b b' : Ring} {n : Nat} {v : List Sample} (h : ringWf cap b = true)
    (e : ringDrain cap b n = some (v, b')) : ringWf cap b' = true := by
  obtain ⟨_, e'⟩ | ⟨hn, e'⟩ := ringDrain_cases cap b n <;> rw [e'] at e
  · cases e
  · cases e
    exact ringSkip_wf hn h

theorem ringClear_wf {cap : Nat} {b : Ring} (h : ringWf cap b = true) : ringWf cap (ringClear b) = true := by
  rw [ringWf_iff] at *
  exact ⟨h.1, .inr rfl, Nat.zero_le _⟩

theorem ringEmpty_wf (cap : Nat) : ringWf cap (Ring.empty cap) = true := by
  rw [ringWf_iff]
  exact ⟨by simp [Ring.empty], .inr rfl, Nat.zero_le _⟩

theorem resetWith_inBuf_wf (c : Config) : ringWf c.inCap (State.resetWith c).inBuf = true := ringEmpty_wf _

theorem resetWith_outBuf_wf (c : Config) : ringWf c.outCap (State.resetWith c).outBuf = true := ringEmpty_wf _

/-- Two buffers in good form pass InternalFault check 2 (rule R262). -/
theorem occupancyOk_of_wf {s : State} (hi : ringWf s.cfg.inCap s.inBuf = true)
    (ho : ringWf s.cfg.outCap s.outBuf = true) : occupancyOk s = true := by
  rw [ringWf_iff] at *
  simp [occupancyOk, hi.2.2, ho.2.2]

end Sys2Proof.Machine
end

