-- ==== Sys2Proof/Laws/State.lean ====
section
/-! SUPPORT. Each named update of the state, field by field, so that no proof unfolds one. -/

namespace Sys2Proof.Machine

variable (s : State)

/-! ### `setEvent` -/

@[simp] theorem setEvent_cfg (e : Event) : (setEvent e s).cfg = s.cfg := rfl
@[simp] theorem setEvent_sess (e : Event) : (setEvent e s).sess = s.sess := rfl
@[simp] theorem setEvent_fsm (e : Event) : (setEvent e s).fsm = s.fsm := rfl
@[simp] theorem setEvent_r (e : Event) : (setEvent e s).r = s.r := rfl
@[simp] theorem setEvent_inBuf (e : Event) : (setEvent e s).inBuf = s.inBuf := rfl
@[simp] theorem setEvent_outBuf (e : Event) : (setEvent e s).outBuf = s.outBuf := rfl
@[simp] theorem setEvent_pend (e : Event) : (setEvent e s).pend = s.pend := rfl
@[simp] theorem setEvent_snap (e : Event) : (setEvent e s).snap = s.snap := rfl
@[simp] theorem setEvent_cmdFlags (e : Event) : (setEvent e s).cmdFlags = s.cmdFlags ||| eventBit e := rfl
@[simp] theorem setEvent_iterCnt (e : Event) : (setEvent e s).iterCnt = s.iterCnt := rfl
@[simp] theorem setEvent_decCnt (e : Event) : (setEvent e s).decCnt = s.decCnt := rfl
@[simp] theorem setEvent_phase (e : Event) : (setEvent e s).phase = s.phase := rfl
@[simp] theorem setEvent_awaiting (e : Event) : (setEvent e s).awaiting = s.awaiting := rfl
@[simp] theorem setEvent_cmdIn (e : Event) : (setEvent e s).cmdIn = s.cmdIn := rfl
@[simp] theorem setEvent_hostOut (e : Event) : (setEvent e s).hostOut = s.hostOut := rfl
@[simp] theorem setEvent_statusIn (e : Event) : (setEvent e s).statusIn = s.statusIn := rfl
@[simp] theorem setEvent_statusOut (e : Event) : (setEvent e s).statusOut = s.statusOut := rfl
@[simp] theorem setEvent_adapterOut (e : Event) : (setEvent e s).adapterOut = s.adapterOut := rfl
@[simp] theorem setEvent_demodIn (e : Event) : (setEvent e s).demodIn = s.demodIn := rfl
@[simp] theorem setEvent_decIn (e : Event) : (setEvent e s).decIn = s.decIn := rfl
@[simp] theorem setEvent_schedule (e : Event) : (setEvent e s).schedule = s.schedule := rfl

/-! ### `respond` -/

@[simp] theorem respond_cfg (code : Code) (flags a b : BitVec 8) (v : List Sample) : (respond code flags a b v s).cfg = s.cfg := rfl
@[simp] theorem respond_sess (code : Code) (flags a b : BitVec 8) (v : List Sample) : (respond code flags a b v s).sess = s.sess := rfl
@[simp] theorem respond_fsm (code : Code) (flags a b : BitVec 8) (v : List Sample) : (respond code flags a b v s).fsm = s.fsm := rfl
@[simp] theorem respond_r (code : Code) (flags a b : BitVec 8) (v : List Sample) : (respond code flags a b v s).r = s.r := rfl
@[simp] theorem respond_inBuf (code : Code) (flags a b : BitVec 8) (v : List Sample) : (respond code flags a b v s).inBuf = s.inBuf := rfl
@[simp] theorem respond_outBuf (code : Code) (flags a b : BitVec 8) (v : List Sample) : (respond code flags a b v s).outBuf = s.outBuf := rfl
@[simp] theorem respond_pend (code : Code) (flags a b : BitVec 8) (v : List Sample) : (respond code flags a b v s).pend = s.pend := rfl
@[simp] theorem respond_snap (code : Code) (flags a b : BitVec 8) (v : List Sample) : (respond code flags a b v s).snap = s.snap := rfl
@[simp] theorem respond_cmdFlags (code : Code) (flags a b : BitVec 8) (v : List Sample) : (respond code flags a b v s).cmdFlags = s.cmdFlags := rfl
@[simp] theorem respond_iterCnt (code : Code) (flags a b : BitVec 8) (v : List Sample) : (respond code flags a b v s).iterCnt = s.iterCnt := rfl
@[simp] theorem respond_decCnt (code : Code) (flags a b : BitVec 8) (v : List Sample) : (respond code flags a b v s).decCnt = s.decCnt := rfl
@[simp] theorem respond_phase (code : Code) (flags a b : BitVec 8) (v : List Sample) : (respond code flags a b v s).phase = .respond { word := responseWord code flags a b, payload := v } := rfl
@[simp] theorem respond_awaiting (code : Code) (flags a b : BitVec 8) (v : List Sample) : (respond code flags a b v s).awaiting = s.awaiting := rfl
@[simp] theorem respond_cmdIn (code : Code) (flags a b : BitVec 8) (v : List Sample) : (respond code flags a b v s).cmdIn = s.cmdIn := rfl
@[simp] theorem respond_hostOut (code : Code) (flags a b : BitVec 8) (v : List Sample) : (respond code flags a b v s).hostOut = s.hostOut := rfl
@[simp] theorem respond_statusIn (code : Code) (flags a b : BitVec 8) (v : List Sample) : (respond code flags a b v s).statusIn = s.statusIn := rfl
@[simp] theorem respond_statusOut (code : Code) (flags a b : BitVec 8) (v : List Sample) : (respond code flags a b v s).statusOut = s.statusOut := rfl
@[simp] theorem respond_adapterOut (code : Code) (flags a b : BitVec 8) (v : List Sample) : (respond code flags a b v s).adapterOut = s.adapterOut := rfl
@[simp] theorem respond_demodIn (code : Code) (flags a b : BitVec 8) (v : List Sample) : (respond code flags a b v s).demodIn = s.demodIn := rfl
@[simp] theorem respond_decIn (code : Code) (flags a b : BitVec 8) (v : List Sample) : (respond code flags a b v s).decIn = s.decIn := rfl
@[simp] theorem respond_schedule (code : Code) (flags a b : BitVec 8) (v : List Sample) : (respond code flags a b v s).schedule = s.schedule := rfl

/-! ### `internalFault` -/

@[simp] theorem internalFault_cfg (k : BitVec 8) : (internalFault k s).cfg = s.cfg := rfl
@[simp] theorem internalFault_sess (k : BitVec 8) : (internalFault k s).sess = .failed := rfl
@[simp] theorem internalFault_fsm (k : BitVec 8) : (internalFault k s).fsm = s.fsm := rfl
@[simp] theorem internalFault_r (k : BitVec 8) : (internalFault k s).r = s.r := rfl
@[simp] theorem internalFault_inBuf (k : BitVec 8) : (internalFault k s).inBuf = s.inBuf := rfl
@[simp] theorem internalFault_outBuf (k : BitVec 8) : (internalFault k s).outBuf = s.outBuf := rfl
@[simp] theorem internalFault_pend (k : BitVec 8) : (internalFault k s).pend = s.pend := rfl
@[simp] theorem internalFault_snap (k : BitVec 8) : (internalFault k s).snap = s.snap := rfl
@[simp] theorem internalFault_cmdFlags (k : BitVec 8) : (internalFault k s).cmdFlags = s.cmdFlags := rfl
@[simp] theorem internalFault_iterCnt (k : BitVec 8) : (internalFault k s).iterCnt = s.iterCnt := rfl
@[simp] theorem internalFault_decCnt (k : BitVec 8) : (internalFault k s).decCnt = s.decCnt := rfl
@[simp] theorem internalFault_phase (k : BitVec 8) : (internalFault k s).phase = .respond { word := responseWord .internalFault 0#8 0#8 k, payload := [] } := rfl
@[simp] theorem internalFault_awaiting (k : BitVec 8) : (internalFault k s).awaiting = s.awaiting := rfl
@[simp] theorem internalFault_cmdIn (k : BitVec 8) : (internalFault k s).cmdIn = s.cmdIn := rfl
@[simp] theorem internalFault_hostOut (k : BitVec 8) : (internalFault k s).hostOut = s.hostOut := rfl
@[simp] theorem internalFault_statusIn (k : BitVec 8) : (internalFault k s).statusIn = s.statusIn := rfl
@[simp] theorem internalFault_statusOut (k : BitVec 8) : (internalFault k s).statusOut = s.statusOut := rfl
@[simp] theorem internalFault_adapterOut (k : BitVec 8) : (internalFault k s).adapterOut = s.adapterOut := rfl
@[simp] theorem internalFault_demodIn (k : BitVec 8) : (internalFault k s).demodIn = s.demodIn := rfl
@[simp] theorem internalFault_decIn (k : BitVec 8) : (internalFault k s).decIn = s.decIn := rfl
@[simp] theorem internalFault_schedule (k : BitVec 8) : (internalFault k s).schedule = s.schedule := rfl

/-! ### `initFail` -/

@[simp] theorem initFail_cfg (k : BitVec 8) : (initFail k s).cfg = s.cfg := rfl
@[simp] theorem initFail_sess (k : BitVec 8) : (initFail k s).sess = .failed := rfl
@[simp] theorem initFail_fsm (k : BitVec 8) : (initFail k s).fsm = s.fsm := rfl
@[simp] theorem initFail_r (k : BitVec 8) : (initFail k s).r = s.r := rfl
@[simp] theorem initFail_inBuf (k : BitVec 8) : (initFail k s).inBuf = s.inBuf := rfl
@[simp] theorem initFail_outBuf (k : BitVec 8) : (initFail k s).outBuf = s.outBuf := rfl
@[simp] theorem initFail_pend (k : BitVec 8) : (initFail k s).pend = s.pend := rfl
@[simp] theorem initFail_snap (k : BitVec 8) : (initFail k s).snap = s.snap := rfl
@[simp] theorem initFail_cmdFlags (k : BitVec 8) : (initFail k s).cmdFlags = s.cmdFlags := rfl
@[simp] theorem initFail_iterCnt (k : BitVec 8) : (initFail k s).iterCnt = s.iterCnt := rfl
@[simp] theorem initFail_decCnt (k : BitVec 8) : (initFail k s).decCnt = s.decCnt := rfl
@[simp] theorem initFail_phase (k : BitVec 8) : (initFail k s).phase = .respond { word := responseWord .initFail 0#8 0#8 k, payload := [] } := rfl
@[simp] theorem initFail_awaiting (k : BitVec 8) : (initFail k s).awaiting = s.awaiting := rfl
@[simp] theorem initFail_cmdIn (k : BitVec 8) : (initFail k s).cmdIn = s.cmdIn := rfl
@[simp] theorem initFail_hostOut (k : BitVec 8) : (initFail k s).hostOut = s.hostOut := rfl
@[simp] theorem initFail_statusIn (k : BitVec 8) : (initFail k s).statusIn = s.statusIn := rfl
@[simp] theorem initFail_statusOut (k : BitVec 8) : (initFail k s).statusOut = s.statusOut := rfl
@[simp] theorem initFail_adapterOut (k : BitVec 8) : (initFail k s).adapterOut = s.adapterOut := rfl
@[simp] theorem initFail_demodIn (k : BitVec 8) : (initFail k s).demodIn = s.demodIn := rfl
@[simp] theorem initFail_decIn (k : BitVec 8) : (initFail k s).decIn = s.decIn := rfl
@[simp] theorem initFail_schedule (k : BitVec 8) : (initFail k s).schedule = s.schedule := rfl

/-! ### `deliver` -/

@[simp] theorem deliver_cfg (y : Response) : (deliver y s).cfg = s.cfg := rfl
@[simp] theorem deliver_sess (y : Response) : (deliver y s).sess = s.sess := rfl
@[simp] theorem deliver_fsm (y : Response) : (deliver y s).fsm = s.fsm := rfl
@[simp] theorem deliver_r (y : Response) : (deliver y s).r = s.r := rfl
@[simp] theorem deliver_inBuf (y : Response) : (deliver y s).inBuf = s.inBuf := rfl
@[simp] theorem deliver_outBuf (y : Response) : (deliver y s).outBuf = s.outBuf := rfl
@[simp] theorem deliver_pend (y : Response) : (deliver y s).pend = s.pend := rfl
@[simp] theorem deliver_snap (y : Response) : (deliver y s).snap = s.snap := rfl
@[simp] theorem deliver_cmdFlags (y : Response) : (deliver y s).cmdFlags = s.cmdFlags := rfl
@[simp] theorem deliver_iterCnt (y : Response) : (deliver y s).iterCnt = s.iterCnt := rfl
@[simp] theorem deliver_decCnt (y : Response) : (deliver y s).decCnt = s.decCnt := rfl
@[simp] theorem deliver_phase (y : Response) : (deliver y s).phase = .idle := rfl
@[simp] theorem deliver_awaiting (y : Response) : (deliver y s).awaiting = s.awaiting := rfl
@[simp] theorem deliver_cmdIn (y : Response) : (deliver y s).cmdIn = s.cmdIn.tail := rfl
@[simp] theorem deliver_hostOut (y : Response) : (deliver y s).hostOut = s.hostOut ++ [y] := rfl
@[simp] theorem deliver_statusIn (y : Response) : (deliver y s).statusIn = s.statusIn := rfl
@[simp] theorem deliver_statusOut (y : Response) : (deliver y s).statusOut = s.statusOut := rfl
@[simp] theorem deliver_adapterOut (y : Response) : (deliver y s).adapterOut = s.adapterOut := rfl
@[simp] theorem deliver_demodIn (y : Response) : (deliver y s).demodIn = s.demodIn := rfl
@[simp] theorem deliver_decIn (y : Response) : (deliver y s).decIn = s.decIn := rfl
@[simp] theorem deliver_schedule (y : Response) : (deliver y s).schedule = s.schedule := rfl

/-! ### `resetState` -/

@[simp] theorem resetState_cfg : (resetState s).cfg = s.cfg := rfl
@[simp] theorem resetState_sess : (resetState s).sess = s.sess := rfl
@[simp] theorem resetState_fsm : (resetState s).fsm = .unsynced := rfl
@[simp] theorem resetState_r : (resetState s).r = s.cfg.nNom := rfl
@[simp] theorem resetState_inBuf : (resetState s).inBuf = ringClear s.inBuf := rfl
@[simp] theorem resetState_outBuf : (resetState s).outBuf = ringClear s.outBuf := rfl
@[simp] theorem resetState_pend : (resetState s).pend = List.replicate s.cfg.frameBits false := rfl
@[simp] theorem resetState_snap : (resetState s).snap = Snapshot.zero s.cfg := rfl
@[simp] theorem resetState_cmdFlags : (resetState s).cmdFlags = 0#8 := rfl
@[simp] theorem resetState_iterCnt : (resetState s).iterCnt = 0#8 := rfl
@[simp] theorem resetState_decCnt : (resetState s).decCnt = 0#8 := rfl
@[simp] theorem resetState_phase : (resetState s).phase = s.phase := rfl
@[simp] theorem resetState_awaiting : (resetState s).awaiting = s.awaiting := rfl
@[simp] theorem resetState_cmdIn : (resetState s).cmdIn = s.cmdIn := rfl
@[simp] theorem resetState_hostOut : (resetState s).hostOut = s.hostOut := rfl
@[simp] theorem resetState_statusIn : (resetState s).statusIn = s.statusIn := rfl
@[simp] theorem resetState_statusOut : (resetState s).statusOut = s.statusOut := rfl
@[simp] theorem resetState_adapterOut : (resetState s).adapterOut = s.adapterOut := rfl
@[simp] theorem resetState_demodIn : (resetState s).demodIn = s.demodIn := rfl
@[simp] theorem resetState_decIn : (resetState s).decIn = s.decIn := rfl
@[simp] theorem resetState_schedule : (resetState s).schedule = s.schedule := rfl

/-! ### `publish` -/

@[simp] theorem publish_cfg (d : DemodRsp) : (publish d s).cfg = s.cfg := rfl
@[simp] theorem publish_sess (d : DemodRsp) : (publish d s).sess = s.sess := rfl
@[simp] theorem publish_fsm (d : DemodRsp) : (publish d s).fsm = s.fsm := rfl
@[simp] theorem publish_r (d : DemodRsp) : (publish d s).r = s.r := rfl
@[simp] theorem publish_inBuf (d : DemodRsp) : (publish d s).inBuf = s.inBuf := rfl
@[simp] theorem publish_outBuf (d : DemodRsp) : (publish d s).outBuf = s.outBuf := rfl
@[simp] theorem publish_pend (d : DemodRsp) : (publish d s).pend = s.pend := rfl
@[simp] theorem publish_snap (d : DemodRsp) : (publish d s).snap = publishedSnapshot d s.fsm s.snap := rfl
@[simp] theorem publish_cmdFlags (d : DemodRsp) : (publish d s).cmdFlags = s.cmdFlags := rfl
@[simp] theorem publish_iterCnt (d : DemodRsp) : (publish d s).iterCnt = s.iterCnt := rfl
@[simp] theorem publish_decCnt (d : DemodRsp) : (publish d s).decCnt = s.decCnt := rfl
@[simp] theorem publish_phase (d : DemodRsp) : (publish d s).phase = s.phase := rfl
@[simp] theorem publish_awaiting (d : DemodRsp) : (publish d s).awaiting = s.awaiting := rfl
@[simp] theorem publish_cmdIn (d : DemodRsp) : (publish d s).cmdIn = s.cmdIn := rfl
@[simp] theorem publish_hostOut (d : DemodRsp) : (publish d s).hostOut = s.hostOut := rfl
@[simp] theorem publish_statusIn (d : DemodRsp) : (publish d s).statusIn = s.statusIn := rfl
@[simp] theorem publish_statusOut (d : DemodRsp) : (publish d s).statusOut = s.statusOut := rfl
@[simp] theorem publish_adapterOut (d : DemodRsp) : (publish d s).adapterOut = s.adapterOut := rfl
@[simp] theorem publish_demodIn (d : DemodRsp) : (publish d s).demodIn = s.demodIn := rfl
@[simp] theorem publish_decIn (d : DemodRsp) : (publish d s).decIn = s.decIn := rfl
@[simp] theorem publish_schedule (d : DemodRsp) : (publish d s).schedule = s.schedule := rfl

/-! ### `fsmTo` -/

@[simp] theorem fsmTo_cfg (f : Fsm) (d : DemodRsp) : (fsmTo f d s).cfg = s.cfg := rfl
@[simp] theorem fsmTo_sess (f : Fsm) (d : DemodRsp) : (fsmTo f d s).sess = s.sess := rfl
@[simp] theorem fsmTo_fsm (f : Fsm) (d : DemodRsp) : (fsmTo f d s).fsm = f := rfl
@[simp] theorem fsmTo_r (f : Fsm) (d : DemodRsp) : (fsmTo f d s).r = s.r := rfl
@[simp] theorem fsmTo_inBuf (f : Fsm) (d : DemodRsp) : (fsmTo f d s).inBuf = s.inBuf := rfl
@[simp] theorem fsmTo_outBuf (f : Fsm) (d : DemodRsp) : (fsmTo f d s).outBuf = s.outBuf := rfl
@[simp] theorem fsmTo_pend (f : Fsm) (d : DemodRsp) : (fsmTo f d s).pend = s.pend := rfl
@[simp] theorem fsmTo_snap (f : Fsm) (d : DemodRsp) : (fsmTo f d s).snap = s.snap := rfl
@[simp] theorem fsmTo_cmdFlags (f : Fsm) (d : DemodRsp) : (fsmTo f d s).cmdFlags = s.cmdFlags := rfl
@[simp] theorem fsmTo_iterCnt (f : Fsm) (d : DemodRsp) : (fsmTo f d s).iterCnt = s.iterCnt := rfl
@[simp] theorem fsmTo_decCnt (f : Fsm) (d : DemodRsp) : (fsmTo f d s).decCnt = s.decCnt := rfl
@[simp] theorem fsmTo_phase (f : Fsm) (d : DemodRsp) : (fsmTo f d s).phase = .pPublish d := rfl
@[simp] theorem fsmTo_awaiting (f : Fsm) (d : DemodRsp) : (fsmTo f d s).awaiting = s.awaiting := rfl
@[simp] theorem fsmTo_cmdIn (f : Fsm) (d : DemodRsp) : (fsmTo f d s).cmdIn = s.cmdIn := rfl
@[simp] theorem fsmTo_hostOut (f : Fsm) (d : DemodRsp) : (fsmTo f d s).hostOut = s.hostOut := rfl
@[simp] theorem fsmTo_statusIn (f : Fsm) (d : DemodRsp) : (fsmTo f d s).statusIn = s.statusIn := rfl
@[simp] theorem fsmTo_statusOut (f : Fsm) (d : DemodRsp) : (fsmTo f d s).statusOut = s.statusOut := rfl
@[simp] theorem fsmTo_adapterOut (f : Fsm) (d : DemodRsp) : (fsmTo f d s).adapterOut = s.adapterOut := rfl
@[simp] theorem fsmTo_demodIn (f : Fsm) (d : DemodRsp) : (fsmTo f d s).demodIn = s.demodIn := rfl
@[simp] theorem fsmTo_decIn (f : Fsm) (d : DemodRsp) : (fsmTo f d s).decIn = s.decIn := rfl
@[simp] theorem fsmTo_schedule (f : Fsm) (d : DemodRsp) : (fsmTo f d s).schedule = s.schedule := rfl

/-! ### `issue` -/

@[simp] theorem issue_cfg (i : Instr) : (issue i s).cfg = s.cfg := rfl
@[simp] theorem issue_sess (i : Instr) : (issue i s).sess = s.sess := rfl
@[simp] theorem issue_fsm (i : Instr) : (issue i s).fsm = s.fsm := rfl
@[simp] theorem issue_r (i : Instr) : (issue i s).r = s.r := rfl
@[simp] theorem issue_inBuf (i : Instr) : (issue i s).inBuf = s.inBuf := rfl
@[simp] theorem issue_outBuf (i : Instr) : (issue i s).outBuf = s.outBuf := rfl
@[simp] theorem issue_pend (i : Instr) : (issue i s).pend = s.pend := rfl
@[simp] theorem issue_snap (i : Instr) : (issue i s).snap = s.snap := rfl
@[simp] theorem issue_cmdFlags (i : Instr) : (issue i s).cmdFlags = s.cmdFlags := rfl
@[simp] theorem issue_iterCnt (i : Instr) : (issue i s).iterCnt = s.iterCnt := rfl
@[simp] theorem issue_decCnt (i : Instr) : (issue i s).decCnt = s.decCnt := rfl
@[simp] theorem issue_phase (i : Instr) : (issue i s).phase = s.phase := rfl
@[simp] theorem issue_awaiting (i : Instr) : (issue i s).awaiting = true := rfl
@[simp] theorem issue_cmdIn (i : Instr) : (issue i s).cmdIn = s.cmdIn := rfl
@[simp] theorem issue_hostOut (i : Instr) : (issue i s).hostOut = s.hostOut := rfl
@[simp] theorem issue_statusIn (i : Instr) : (issue i s).statusIn = s.statusIn := rfl
@[simp] theorem issue_statusOut (i : Instr) : (issue i s).statusOut = s.statusOut := rfl
@[simp] theorem issue_adapterOut (i : Instr) : (issue i s).adapterOut = s.adapterOut ++ [encode i] := rfl
@[simp] theorem issue_demodIn (i : Instr) : (issue i s).demodIn = s.demodIn := rfl
@[simp] theorem issue_decIn (i : Instr) : (issue i s).decIn = s.decIn := rfl
@[simp] theorem issue_schedule (i : Instr) : (issue i s).schedule = s.schedule := rfl

/-! ### `takeDemod` -/

@[simp] theorem takeDemod_cfg (ys : List Reply) : (takeDemod ys s).cfg = s.cfg := rfl
@[simp] theorem takeDemod_sess (ys : List Reply) : (takeDemod ys s).sess = s.sess := rfl
@[simp] theorem takeDemod_fsm (ys : List Reply) : (takeDemod ys s).fsm = s.fsm := rfl
@[simp] theorem takeDemod_r (ys : List Reply) : (takeDemod ys s).r = s.r := rfl
@[simp] theorem takeDemod_inBuf (ys : List Reply) : (takeDemod ys s).inBuf = s.inBuf := rfl
@[simp] theorem takeDemod_outBuf (ys : List Reply) : (takeDemod ys s).outBuf = s.outBuf := rfl
@[simp] theorem takeDemod_pend (ys : List Reply) : (takeDemod ys s).pend = s.pend := rfl
@[simp] theorem takeDemod_snap (ys : List Reply) : (takeDemod ys s).snap = s.snap := rfl
@[simp] theorem takeDemod_cmdFlags (ys : List Reply) : (takeDemod ys s).cmdFlags = s.cmdFlags := rfl
@[simp] theorem takeDemod_iterCnt (ys : List Reply) : (takeDemod ys s).iterCnt = s.iterCnt := rfl
@[simp] theorem takeDemod_decCnt (ys : List Reply) : (takeDemod ys s).decCnt = s.decCnt := rfl
@[simp] theorem takeDemod_phase (ys : List Reply) : (takeDemod ys s).phase = s.phase := rfl
@[simp] theorem takeDemod_awaiting (ys : List Reply) : (takeDemod ys s).awaiting = false := rfl
@[simp] theorem takeDemod_cmdIn (ys : List Reply) : (takeDemod ys s).cmdIn = s.cmdIn := rfl
@[simp] theorem takeDemod_hostOut (ys : List Reply) : (takeDemod ys s).hostOut = s.hostOut := rfl
@[simp] theorem takeDemod_statusIn (ys : List Reply) : (takeDemod ys s).statusIn = s.statusIn := rfl
@[simp] theorem takeDemod_statusOut (ys : List Reply) : (takeDemod ys s).statusOut = s.statusOut := rfl
@[simp] theorem takeDemod_adapterOut (ys : List Reply) : (takeDemod ys s).adapterOut = s.adapterOut := rfl
@[simp] theorem takeDemod_demodIn (ys : List Reply) : (takeDemod ys s).demodIn = ys := rfl
@[simp] theorem takeDemod_decIn (ys : List Reply) : (takeDemod ys s).decIn = s.decIn := rfl
@[simp] theorem takeDemod_schedule (ys : List Reply) : (takeDemod ys s).schedule = s.schedule := rfl

/-! ### `takeDec` -/

@[simp] theorem takeDec_cfg (ys : List Reply) : (takeDec ys s).cfg = s.cfg := rfl
@[simp] theorem takeDec_sess (ys : List Reply) : (takeDec ys s).sess = s.sess := rfl
@[simp] theorem takeDec_fsm (ys : List Reply) : (takeDec ys s).fsm = s.fsm := rfl
@[simp] theorem takeDec_r (ys : List Reply) : (takeDec ys s).r = s.r := rfl
@[simp] theorem takeDec_inBuf (ys : List Reply) : (takeDec ys s).inBuf = s.inBuf := rfl
@[simp] theorem takeDec_outBuf (ys : List Reply) : (takeDec ys s).outBuf = s.outBuf := rfl
@[simp] theorem takeDec_pend (ys : List Reply) : (takeDec ys s).pend = s.pend := rfl
@[simp] theorem takeDec_snap (ys : List Reply) : (takeDec ys s).snap = s.snap := rfl
@[simp] theorem takeDec_cmdFlags (ys : List Reply) : (takeDec ys s).cmdFlags = s.cmdFlags := rfl
@[simp] theorem takeDec_iterCnt (ys : List Reply) : (takeDec ys s).iterCnt = s.iterCnt := rfl
@[simp] theorem takeDec_decCnt (ys : List Reply) : (takeDec ys s).decCnt = s.decCnt := rfl
@[simp] theorem takeDec_phase (ys : List Reply) : (takeDec ys s).phase = s.phase := rfl
@[simp] theorem takeDec_awaiting (ys : List Reply) : (takeDec ys s).awaiting = false := rfl
@[simp] theorem takeDec_cmdIn (ys : List Reply) : (takeDec ys s).cmdIn = s.cmdIn := rfl
@[simp] theorem takeDec_hostOut (ys : List Reply) : (takeDec ys s).hostOut = s.hostOut := rfl
@[simp] theorem takeDec_statusIn (ys : List Reply) : (takeDec ys s).statusIn = s.statusIn := rfl
@[simp] theorem takeDec_statusOut (ys : List Reply) : (takeDec ys s).statusOut = s.statusOut := rfl
@[simp] theorem takeDec_adapterOut (ys : List Reply) : (takeDec ys s).adapterOut = s.adapterOut := rfl
@[simp] theorem takeDec_demodIn (ys : List Reply) : (takeDec ys s).demodIn = s.demodIn := rfl
@[simp] theorem takeDec_decIn (ys : List Reply) : (takeDec ys s).decIn = ys := rfl
@[simp] theorem takeDec_schedule (ys : List Reply) : (takeDec ys s).schedule = s.schedule := rfl

/-! ### `answerStatus` -/

@[simp] theorem answerStatus_cfg (ws : List Word) : (answerStatus ws s).cfg = s.cfg := rfl
@[simp] theorem answerStatus_sess (ws : List Word) : (answerStatus ws s).sess = s.sess := rfl
@[simp] theorem answerStatus_fsm (ws : List Word) : (answerStatus ws s).fsm = s.fsm := rfl
@[simp] theorem answerStatus_r (ws : List Word) : (answerStatus ws s).r = s.r := rfl
@[simp] theorem answerStatus_inBuf (ws : List Word) : (answerStatus ws s).inBuf = s.inBuf := rfl
@[simp] theorem answerStatus_outBuf (ws : List Word) : (answerStatus ws s).outBuf = s.outBuf := rfl
@[simp] theorem answerStatus_pend (ws : List Word) : (answerStatus ws s).pend = s.pend := rfl
@[simp] theorem answerStatus_snap (ws : List Word) : (answerStatus ws s).snap = s.snap := rfl
@[simp] theorem answerStatus_cmdFlags (ws : List Word) : (answerStatus ws s).cmdFlags = s.cmdFlags := rfl
@[simp] theorem answerStatus_iterCnt (ws : List Word) : (answerStatus ws s).iterCnt = s.iterCnt := rfl
@[simp] theorem answerStatus_decCnt (ws : List Word) : (answerStatus ws s).decCnt = s.decCnt := rfl
@[simp] theorem answerStatus_phase (ws : List Word) : (answerStatus ws s).phase = s.phase := rfl
@[simp] theorem answerStatus_awaiting (ws : List Word) : (answerStatus ws s).awaiting = s.awaiting := rfl
@[simp] theorem answerStatus_cmdIn (ws : List Word) : (answerStatus ws s).cmdIn = s.cmdIn := rfl
@[simp] theorem answerStatus_hostOut (ws : List Word) : (answerStatus ws s).hostOut = s.hostOut := rfl
@[simp] theorem answerStatus_statusIn (ws : List Word) : (answerStatus ws s).statusIn = s.statusIn.tail := rfl
@[simp] theorem answerStatus_statusOut (ws : List Word) : (answerStatus ws s).statusOut = s.statusOut ++ [ws] := rfl
@[simp] theorem answerStatus_adapterOut (ws : List Word) : (answerStatus ws s).adapterOut = s.adapterOut := rfl
@[simp] theorem answerStatus_demodIn (ws : List Word) : (answerStatus ws s).demodIn = s.demodIn := rfl
@[simp] theorem answerStatus_decIn (ws : List Word) : (answerStatus ws s).decIn = s.decIn := rfl
@[simp] theorem answerStatus_schedule (ws : List Word) : (answerStatus ws s).schedule = s.schedule := rfl

end Sys2Proof.Machine
end

