-- ==== Sys2Proof/Laws/Ops.lean ====
section
/-! SUPPORT. What each shared operation can do, said once: one lemma per operation, cited instead of unfolding it. -/

namespace Sys2Proof.Machine

/-! ### The configuration checks -/

/-- The model's check is the spec's table (rule R205). -/
theorem configCheck_iff (c : Config) (k : Nat) : configCheck c k = true ↔ CheckHolds c k := by
  unfold configCheck CheckHolds
  split <;> simp [and_assoc]
  omega

/-- No check fails exactly when the nine checks of rule R205 hold. -/
theorem configOk_iff (c : Config) : ConfigOk c ↔ ∀ j, 1 ≤ j → j ≤ 9 → CheckHolds c j := by
  constructor
  · intro h j h1 h9
    rw [ConfigOk, firstFailingCheck, List.find?_eq_none] at h
    have hj : j ∈ [1, 2, 3, 4, 5, 6, 7, 8, 9] := by
      interval_cases j <;> simp
    simpa [configCheck_iff] using h j hj
  · intro h
    rw [ConfigOk, firstFailingCheck, List.find?_eq_none]
    intro j hj
    have hr : 1 ≤ j ∧ j ≤ 9 := by simp at hj; omega
    simp [configCheck_iff, h j hr.1 hr.2]

/-! ### Phases of CREATE and PUSH -/

/-- Everything CREATE's check can do (rule R202). -/
theorem createCheck_cases (s : State) :
    (ConfigOk s.cfg ∧ createCheck s = { s with phase := .cDemodInit }) ∨
    (∃ k, firstFailingCheck s.cfg = some k ∧
      createCheck s = respond .configFault 0#8 0#8 (BitVec.ofNat 8 k) [] { s with sess := .failed }) := by
  unfold createCheck
  split
  · exact .inr ⟨_, ‹_›, rfl⟩
  · exact .inl ⟨‹_›, rfl⟩

/-- Everything PUSH's guards can do (rules R211, R212 and R222). -/
theorem pushAccept_cases (s : State) :
    (s.sess ≠ .ready ∧ pushAccept s = respond .notReady 0#8 0#8 (0#6 ++ sessCode s.sess) [] s) ∨
    (s.sess = .ready ∧ s.inBuf.occ + s.cfg.nPush > s.cfg.inCap ∧
      pushAccept s = respond .backpressure 0#8 0#8 0#8 [] s) ∨
    (s.sess = .ready ∧ s.inBuf.occ + s.cfg.nPush ≤ s.cfg.inCap ∧
      pushAccept s = { s with cmdFlags := 0#8, iterCnt := 0#8, decCnt := 0#8, phase := .pAppend }) := by
  unfold pushAccept
  split
  · exact .inl ⟨‹_›, rfl⟩
  · split
    · exact .inr (.inl ⟨by simpa using ‹¬ s.sess ≠ .ready›, ‹_›, rfl⟩)
    · exact .inr (.inr ⟨by simpa using ‹¬ s.sess ≠ .ready›, by omega, rfl⟩)

/-- Going on after a buffer operation when InternalFault check 2 passes (rule R262). -/
theorem afterBufferOp_ok {s : State} (p : Phase) (h : occupancyOk s = true) :
    afterBufferOp p s = { s with phase := p } := by
  simp [afterBufferOp, h]

/-- Everything the loop test can do (rule R171). -/
theorem pushLoopTest_cases (s : State) :
    (s.r ≤ s.inBuf.occ ∧ pushLoopTest s = { s with phase := .pDemodWait }) ∨
    (s.inBuf.occ < s.r ∧ pushLoopTest s = { s with phase := .pDrain }) := by
  unfold pushLoopTest
  split
  · exact .inl ⟨‹_›, rfl⟩
  · exact .inr ⟨by omega, rfl⟩

/-- Everything the consume phase can do (rules R172 to R177 and R262). -/
theorem pushConsume_cases (d : DemodRsp) (s : State) :
    (s.inBuf.occ < s.r ∧ pushConsume d s = internalFault 1#8 s) ∨
    (s.r ≤ s.inBuf.occ ∧
      ((occupancyOk { s with inBuf := ringSkip s.cfg.inCap s.inBuf s.r } = false ∧
        pushConsume d s = internalFault 2#8 { s with inBuf := ringSkip s.cfg.inCap s.inBuf s.r }) ∨
      (responseValid s.cfg d = true ∧ pushConsume d s =
        { s with inBuf := ringSkip s.cfg.inCap s.inBuf s.r, r := d.nextR.toNat, phase := .pFsm d }) ∨
      (responseValid s.cfg d = false ∧ pushConsume d s =
        setEvent .demodFail { s with inBuf := ringSkip s.cfg.inCap s.inBuf s.r, phase := .pLoopTest }))) := by
  obtain ⟨hn, e⟩ | ⟨hn, e⟩ := ringConsume_cases s.cfg.inCap s.inBuf s.r
  · exact .inl ⟨hn, by simp [pushConsume, e]⟩
  · refine .inr ⟨hn, ?_⟩
    cases ho : occupancyOk { s with inBuf := ringSkip s.cfg.inCap s.inBuf s.r }
    · exact .inl ⟨rfl, by simp [pushConsume, e, ho]⟩
    · cases hv : responseValid s.cfg d
      · exact .inr (.inr ⟨rfl, by simp [pushConsume, e, ho, hv]⟩)
      · exact .inr (.inl ⟨rfl, by simp [pushConsume, e, ho, hv]⟩)

/-- Everything the drain phase can do when the buffers are within their capacities (rules R215 and R216). -/
theorem pushDrain_cases {s : State} (hi : ringWf s.cfg.inCap s.inBuf = true)
    (ho : ringWf s.cfg.outCap s.outBuf = true) :
    (s.outBuf.occ < s.cfg.nDrain ∧ pushDrain s = respond .noOutputYet s.cmdFlags s.iterCnt s.decCnt [] s) ∨
    (s.cfg.nDrain ≤ s.outBuf.occ ∧ pushDrain s =
      respond .audio s.cmdFlags s.iterCnt s.decCnt (ringFront s.cfg.outCap s.outBuf s.cfg.nDrain)
        { s with outBuf := ringSkip s.cfg.outCap s.outBuf s.cfg.nDrain }) := by
  obtain ⟨hn, e⟩ | ⟨hn, e⟩ := ringDrain_cases s.cfg.outCap s.outBuf s.cfg.nDrain
  · exact .inl ⟨hn, by simp [pushDrain, e, occupancyOk_of_wf hi ho]⟩
  · refine .inr ⟨hn, ?_⟩
    have := occupancyOk_of_wf (s := { s with outBuf := ringSkip s.cfg.outCap s.outBuf s.cfg.nDrain }) hi
      (ringSkip_wf hn ho)
    simp [pushDrain, e, this]

/-! ### The state machine -/

/-- Everything STEP_UNSYNCED can do when the buffers are within their capacities (rules R132 and R133). -/
theorem stepUnsynced_cases (d : DemodRsp) {s : State} (hi : ringWf s.cfg.inCap s.inBuf = true)
    (ho : ringWf s.cfg.outCap s.outBuf = true) :
    (s.outBuf.occ + s.cfg.nNom ≤ s.cfg.outCap ∧ stepUnsynced d s =
      fsmTo (unsyncedNext s.cfg d) d
        { s with outBuf := (ringAppend s.cfg.outCap s.outBuf (zeros s.cfg.nNom)).2 }) ∨
    (s.cfg.outCap < s.outBuf.occ + s.cfg.nNom ∧ stepUnsynced d s =
      fsmTo (unsyncedNext s.cfg d) d (setEvent .silDrop s)) := by
  unfold stepUnsynced
  split
  · refine .inl ⟨‹_›, ?_⟩
    have := occupancyOk_of_wf
      (s := { s with outBuf := (ringAppend s.cfg.outCap s.outBuf (zeros s.cfg.nNom)).2 }) hi (ringAppend_wf _ ho)
    simp [this]
  · exact .inr ⟨by omega, rfl⟩

/-- Everything the end of COMPLETE_FRAME can do when the buffers are within their capacities (rules R148 and R149). -/
theorem finishFrame_cases (audio : Option (List Sample)) (d : DemodRsp) {s : State}
    (hi : ringWf s.cfg.inCap s.inBuf = true) (ho : ringWf s.cfg.outCap s.outBuf = true) :
    (audio = none ∧ finishFrame audio d s = fsmTo .waitFirstHalf d (setEvent .decodeFail s)) ∨
    (∃ v, audio = some v ∧ s.outBuf.occ + s.cfg.frameOut ≤ s.cfg.outCap ∧ finishFrame audio d s =
      fsmTo .waitFirstHalf d { s with outBuf := (ringAppend s.cfg.outCap s.outBuf v).2 }) ∨
    (∃ v, audio = some v ∧ s.cfg.outCap < s.outBuf.occ + s.cfg.frameOut ∧ finishFrame audio d s =
      fsmTo .waitFirstHalf d (setEvent .frameDrop s)) := by
  cases audio with
  | none => exact .inl ⟨rfl, rfl⟩
  | some v =>
    by_cases hf : s.outBuf.occ + s.cfg.frameOut ≤ s.cfg.outCap
    · refine .inr (.inl ⟨v, rfl, hf, ?_⟩)
      have := occupancyOk_of_wf (s := { s with outBuf := (ringAppend s.cfg.outCap s.outBuf v).2 }) hi
        (ringAppend_wf _ ho)
      simp [finishFrame, hf, this]
    · exact .inr (.inr ⟨v, rfl, by omega, by simp [finishFrame, hf]⟩)

/-- Everything STEP_WAIT_FIRST can do (rules R136 to R138). -/
theorem stepWaitFirst_cases (d : DemodRsp) (s : State) :
    (d.lock = false ∧ stepWaitFirst d s = fsmTo .unsynced d s) ∨
    (d.lock = true ∧ d.sync = false ∧ stepWaitFirst d s =
      fsmTo .waitSecondHalf d { s with pend := captureFirst s.cfg d.bits s.pend }) ∨
    (d.lock = true ∧ d.sync = true ∧ stepWaitFirst d s = fsmTo .waitFirstHalf d s) := by
  cases hl : d.lock <;> cases hs : d.sync <;> simp [stepWaitFirst, hl, hs]

/-- Everything STEP_WAIT_SECOND can do (rules R139 to R141). -/
theorem stepWaitSecond_cases (d : DemodRsp) (s : State) :
    (d.lock = false ∧ stepWaitSecond d s = fsmTo .unsynced d s) ∨
    (d.lock = true ∧ d.sync = false ∧ stepWaitSecond d s = fsmTo .waitFirstHalf d s) ∨
    (d.lock = true ∧ d.sync = true ∧ stepWaitSecond d s =
      { s with pend := captureSecond s.cfg d.bits s.pend, phase := .pRepairWait d }) := by
  cases hl : d.lock <;> cases hs : d.sync <;> simp [stepWaitSecond, hl, hs]

/-! ### Adapter responses -/

/-- A parsed demodulator response has `N_SYM` symbols and `B` bits (rule R86). -/
theorem parseDemod_wf {c : Config} {y : Reply} {d : DemodRsp} (h : parseDemod c y = some d) :
    rspWf c d = true := by
  unfold parseDemod at h
  split at h
  · cases h
    have hl := ‹_ ∧ _›.1
    simp only [rspWf, wordsToBits, List.length_map, List.length_range, List.length_take, List.length_drop, hl,
      demodFixedWords, beq_self_eq_true, Bool.and_true, beq_iff_eq]
    omega
  · cases h

/-- A parsed repair response has `2*B` bits (rule R88). -/
theorem parseRepair_length {c : Config} {y : Reply} {bits : List Bool} (h : parseRepair c y = some bits) :
    bits.length = c.frameBits := by
  unfold parseRepair at h
  split at h
  · cases h
    simp [wordsToBits]
  · cases h

/-- Parsed audio has `FRAME_OUT` samples (rule R89). -/
theorem parseDecode_length {c : Config} {y : Reply} {v : List Sample} (h : parseDecode c y = some (some v)) :
    v.length = c.frameOut := by
  unfold parseDecode at h
  split at h
  · split at h
    · split at h
      · cases h
        assumption
      · cases h
    · cases h
  · cases h

/-- The CODE of a response word is the code it was built from (rule R76). -/
theorem opField_responseWord (c : Code) (flags a b : BitVec 8) :
    opField (responseWord c flags a b) = codeValue c := by
  simp only [opField, responseWord]
  generalize codeValue c = x
  ext k hk
  simp only [BitVec.getElem_extractLsb']
  rw [BitVec.getLsbD_append, BitVec.getLsbD_append, BitVec.getLsbD_append]
  rw [if_neg (by omega), if_neg (by omega), if_neg (by omega), ← BitVec.getLsbD_eq_getElem]
  congr 1
  omega

end Sys2Proof.Machine
end

