-- ==== Sys2Proof/Laws/PerInstr.lean ====
section
/-! SUPPORT. A statement for every transaction: its header matches its row of the opcode table. -/

namespace Sys2Proof.Laws

/-- The mask and the match value of a transaction's row of the opcode table. -/
def tableRow : Instr → Word × Word
  | .create => (0xFFFFFFFF#32, 0x01000000#32)
  | .push _ => (0xFFFFFFFF#32, 0x02000000#32)
  | .readSess => (0xFFFFFFFF#32, 0x00000000#32)
  | .readSync => (0xFFFFFFFF#32, 0x00000001#32)
  | .readFsm => (0xFFFFFFFF#32, 0x00000002#32)
  | .readSeq => (0xFFFFFFFF#32, 0x00000003#32)
  | .readLock => (0xFFFFFFFF#32, 0x00000004#32)
  | .readSnr => (0xFFFFFFFF#32, 0x00000005#32)
  | .readToff => (0xFFFFFFFF#32, 0x00000006#32)
  | .readFoff => (0xFFFFFFFF#32, 0x00000007#32)
  | .readClkoff => (0xFFFFFFFF#32, 0x00000008#32)
  | .readNsym => (0xFFFFFFFF#32, 0x00000009#32)
  | .readSym _ => (0xFFFFFF00#32, 0x00000000#32)
  | .readReserved _ => (0xFFFFFF00#32, 0x00000000#32)
  | .readSnapshot => (0xFFFFFFFF#32, 0x01000000#32)
  | .demodInit => (0xFFFFFFFF#32, 0x10000000#32)
  | .demodReq _ _ => (0xFFFF0000#32, 0x11000000#32)
  | .decInit => (0xFFFFFFFF#32, 0x20000000#32)
  | .decRepair _ => (0xFFFFFFFF#32, 0x21000000#32)
  | .decDecode _ => (0xFFFFFFFF#32, 0x22000000#32)

/-- The header under the row's mask is the row's match value (rules R72, R80, R81 and R85). -/
def TableRow.Statement (i : Instr) : Prop := (encode i).header &&& (tableRow i).1 = (tableRow i).2

/-- A READ_WORD header has no bit above its address. -/
theorem readHeader_masked (addr : BitVec 8) : readHeader addr &&& 0xFFFFFF00#32 = 0#32 := by
  revert addr; decide

/-- A DEMOD_REQ header has its opcode above its count. -/
theorem demodReqHeader_masked (r : BitVec 16) : ((0x11#8 ++ 0#8 ++ r : Word) &&& 0xFFFF0000#32) = 0x11000000#32 := by
  ext k hk
  simp only [BitVec.getElem_and, BitVec.getElem_append]
  interval_cases k <;> simp

theorem TableRow.create : TableRow.Statement Instr.create := rfl
theorem TableRow.push (samples : List Sample) : TableRow.Statement (Instr.push samples) := by
  show opHeader 0x02#8 &&& 0xFFFFFFFF#32 = 0x02000000#32
  decide
theorem TableRow.readSess : TableRow.Statement Instr.readSess := rfl
theorem TableRow.readSync : TableRow.Statement Instr.readSync := rfl
theorem TableRow.readFsm : TableRow.Statement Instr.readFsm := rfl
theorem TableRow.readSeq : TableRow.Statement Instr.readSeq := rfl
theorem TableRow.readLock : TableRow.Statement Instr.readLock := rfl
theorem TableRow.readSnr : TableRow.Statement Instr.readSnr := rfl
theorem TableRow.readToff : TableRow.Statement Instr.readToff := rfl
theorem TableRow.readFoff : TableRow.Statement Instr.readFoff := rfl
theorem TableRow.readClkoff : TableRow.Statement Instr.readClkoff := rfl
theorem TableRow.readNsym : TableRow.Statement Instr.readNsym := rfl
theorem TableRow.readSym (k : Nat) : TableRow.Statement (Instr.readSym k) := readHeader_masked _
theorem TableRow.readReserved (addr : BitVec 8) : TableRow.Statement (Instr.readReserved addr) := readHeader_masked _
theorem TableRow.readSnapshot : TableRow.Statement Instr.readSnapshot := rfl
theorem TableRow.demodInit : TableRow.Statement Instr.demodInit := rfl
theorem TableRow.demodReq (r : BitVec 16) (samples : List Sample) : TableRow.Statement (Instr.demodReq r samples) := demodReqHeader_masked r
theorem TableRow.decInit : TableRow.Statement Instr.decInit := rfl
theorem TableRow.decRepair (bits : List Bool) : TableRow.Statement (Instr.decRepair bits) := by
  show opHeader 0x21#8 &&& 0xFFFFFFFF#32 = 0x21000000#32
  decide
theorem TableRow.decDecode (bytes : List Byte) : TableRow.Statement (Instr.decDecode bytes) := by
  show opHeader 0x22#8 &&& 0xFFFFFFFF#32 = 0x22000000#32
  decide

end Sys2Proof.Laws
end

