-- ==== Sys2Proof/Laws/Step.lean ====
section
/-! SUPPORT. What one step can do, said once: `Moves` lists every move of the two agents, and `step_moves` says that a
step is one of them. -/

namespace Sys2Proof.Machine

/-- A CREATE stands at the command port. -/
def CreateAt (s : State) : Prop := ∃ m rest, s.cmdIn = m :: rest ∧ commandInstr s.cfg m = .ok .create

/-- A PUSH of `p` stands at the command port. -/
def PushAt (p : List Sample) (s : State) : Prop :=
  ∃ m rest, s.cmdIn = m :: rest ∧ commandInstr s.cfg m = .ok (.push p)

/-- Every move from `s`, the schedule entry already taken. -/
inductive Moves (s : State) : State → Prop
  | wait : Moves s s
  | status (ws : List Word) : Moves s (answerStatus ws s)
  | acceptCreate : s.phase = .idle → CreateAt s → Moves s { s with phase := .cReset }
  | acceptPush (p : List Sample) : s.phase = .idle → PushAt p s → Moves s { s with phase := .pAccept }
  | illegal : s.phase = .idle → s.cmdIn ≠ [] → Moves s (respond .illegalCommand 0#8 0#8 0#8 [] s)
  | deliver (rsp : Response) : s.phase = .respond rsp → Moves s (deliver rsp s)
  | reset : s.phase = .cReset → CreateAt s → Moves s { resetState s with phase := .cCheck }
  | check : s.phase = .cCheck → CreateAt s → Moves s (createCheck s)
  | accept (p : List Sample) : s.phase = .pAccept → PushAt p s → Moves s (pushAccept s)
  | append (p : List Sample) : s.phase = .pAppend → PushAt p s → Moves s (pushAppend p s)
  | loopTest (p : List Sample) : s.phase = .pLoopTest → PushAt p s → Moves s (pushLoopTest s)
  | consume (p : List Sample) (d : DemodRsp) : s.phase = .pConsume d → PushAt p s → Moves s (pushConsume d s)
  | fsm (p : List Sample) (d : DemodRsp) : s.phase = .pFsm d → PushAt p s → Moves s (fsmStep d s)
  | publish (p : List Sample) (d : DemodRsp) : s.phase = .pPublish d → PushAt p s → Moves s (pushPublish d s)
  | drain (p : List Sample) : s.phase = .pDrain → PushAt p s → Moves s (pushDrain s)
  | issueDemodInit : s.phase = .cDemodInit → s.awaiting = false → Moves s (issue .demodInit s)
  | issueDecInit : s.phase = .cDecInit → s.awaiting = false → Moves s (issue .decInit s)
  | issueDemodReq : s.phase = .pDemodWait → s.awaiting = false →
      Moves s (issue (.demodReq (BitVec.ofNat 16 s.r) (ringFront s.cfg.inCap s.inBuf s.r)) s)
  | issueDecRepair (d : DemodRsp) : s.phase = .pRepairWait d → s.awaiting = false → Moves s (issue (.decRepair s.pend) s)
  | issueDecDecode (d : DemodRsp) : s.phase = .pDecodeWait d → s.awaiting = false →
      Moves s (decDecodeIssue (pack s.cfg.nbytes s.pend) s)
  | demodInit (y : Reply) (rest : List Reply) (ok : Bool) : s.phase = .cDemodInit → s.awaiting = true →
      s.demodIn = y :: rest → parseInit y = some ok → Moves s (demodInitAnswer ok (takeDemod rest s))
  | decInit (y : Reply) (rest : List Reply) (ok : Bool) : s.phase = .cDecInit → s.awaiting = true →
      s.decIn = y :: rest → parseInit y = some ok → Moves s (decInitAnswer ok (takeDec rest s))
  | demodReq (y : Reply) (rest : List Reply) (d : DemodRsp) : s.phase = .pDemodWait → s.awaiting = true →
      s.demodIn = y :: rest → parseDemod s.cfg y = some d → Moves s (demodReqAnswer d (takeDemod rest s))
  | decRepair (y : Reply) (rest : List Reply) (bits : List Bool) (d : DemodRsp) : s.phase = .pRepairWait d →
      s.awaiting = true → s.decIn = y :: rest → parseRepair s.cfg y = some bits →
      Moves s { takeDec rest s with pend := bits, phase := .pDecodeWait d }
  | decDecode (y : Reply) (rest : List Reply) (audio : Option (List Sample)) (d : DemodRsp) :
      s.phase = .pDecodeWait d → s.awaiting = true → s.decIn = y :: rest → parseDecode s.cfg y = some audio →
      Moves s (finishFrame audio d (takeDec rest s))

/-- A decoded status request answers words and does nothing else (rule R243). -/
theorem exec_of_statusInstr {c : Config} {w : Word} {i : Instr} (h : statusInstr c w = .ok i) (s : State) :
    ∃ ws, exec i s = .next (answerStatus ws s) := by
  simp only [statusInstr, decode, decodeStatus] at h
  split at h
  · cases h
  · split at h
    · split at h
      · cases h
      · cases h
        unfold readWordAt
        split
        · exact ⟨_, rfl⟩
        · exact ⟨_, rfl⟩
        · exact ⟨_, rfl⟩
        · exact ⟨_, rfl⟩
        · exact ⟨_, rfl⟩
        · exact ⟨_, rfl⟩
        · exact ⟨_, rfl⟩
        · exact ⟨_, rfl⟩
        · exact ⟨_, rfl⟩
        · exact ⟨_, rfl⟩
        · split <;> exact ⟨_, rfl⟩
    · split at h
      · split at h
        · cases h
        · split at h
          · cases h
          · cases h
            exact ⟨_, rfl⟩
      · cases h

/-- A decoded command is CREATE, or a PUSH of `N_PUSH` samples (rules R72 and R74). -/
theorem commandInstr_cases {c : Config} {m : Packet} {i : Instr} (h : commandInstr c m = .ok i) :
    i = .create ∨ ∃ p, i = .push p ∧ p.length = c.nPush := by
  simp only [commandInstr, decode, decodeCommand] at h
  split at h
  · split at h
    · cases h
    · split at h
      · cases h
      · cases h
        exact .inl rfl
  · split at h
    · split at h
      · cases h
      · split at h
        · cases h
        · cases h
          exact .inr ⟨_, rfl, by simp_all⟩
    · cases h

theorem PushAt_length {p : List Sample} {s : State} (h : PushAt p s) : p.length = s.cfg.nPush := by
  obtain ⟨m, rest, _, hm⟩ := h
  obtain h | ⟨q, h, hl⟩ := commandInstr_cases hm
  · cases h
  · cases h
    exact hl

/-- CREATE's moves. -/
theorem execCreate_moves {s t : State} (hc : CreateAt s) (h : execCreate s = .next t) : Moves s t := by
  unfold execCreate at h
  split at h <;> cases h
  case h_1 h => exact .acceptCreate h hc
  case h_2 h => exact .reset h hc
  case h_3 h => exact .check h hc
  case h_4 h => exact .deliver _ h
  all_goals exact .wait

/-- PUSH's moves. -/
theorem execPush_moves {p : List Sample} {s t : State} (hp : PushAt p s) (h : execPush p s = .next t) :
    Moves s t := by
  unfold execPush at h
  split at h <;> cases h
  case h_1 h => exact .acceptPush p h hp
  case h_2 h => exact .accept p h hp
  case h_3 h => exact .append p h hp
  case h_4 h => exact .loopTest p h hp
  case h_5 h => exact .consume p _ h hp
  case h_6 h => exact .fsm p _ h hp
  case h_7 h => exact .publish p _ h hp
  case h_8 h => exact .drain p h hp
  case h_9 h => exact .deliver _ h
  all_goals exact .wait

/-- An illegal command's moves (rule R220). -/
theorem illegalCommand_moves {s : State} (hc : s.cmdIn ≠ []) : Moves s (illegalCommand s) := by
  unfold illegalCommand
  split
  · exact .illegal ‹_› hc
  · exact .deliver _ ‹_›
  · exact .wait

/-- The adapter requests' moves. -/
theorem adapter_moves {s t : State} {i : Instr} (hi : adapterInstr s = some i) (h : exec i s = .next t) :
    Moves s t := by
  unfold adapterInstr at hi
  split at hi
  case h_1 hp =>
    cases hi
    simp only [exec, execDemodInit] at h
    split at h
    · cases h
      exact .issueDemodInit hp ‹_›
    · split at h
      · cases h
        exact .wait
      · split at h <;> cases h
        exact .demodInit _ _ _ hp (by simp_all) ‹_› ‹_›
  case h_2 hp =>
    cases hi
    simp only [exec, execDecInit] at h
    split at h
    · cases h
      exact .issueDecInit hp ‹_›
    · split at h
      · cases h
        exact .wait
      · split at h <;> cases h
        exact .decInit _ _ _ hp (by simp_all) ‹_› ‹_›
  case h_3 hp =>
    cases hi
    simp only [exec, execDemodReq] at h
    split at h
    · cases h
      exact .issueDemodReq hp ‹_›
    · split at h
      · cases h
        exact .wait
      · split at h <;> cases h
        exact .demodReq _ _ _ hp (by simp_all) ‹_› ‹_›
  case h_4 d hp =>
    cases hi
    simp only [exec, execDecRepair] at h
    split at h
    · cases h
      exact .issueDecRepair d hp ‹_›
    · split at h
      · cases h
        exact .wait
      · split at h <;> cases h
        simp only [decRepairAnswer, takeDec_phase, hp, frameRsp]
        exact .decRepair _ _ _ d hp (by simp_all) ‹_› ‹_›
  case h_5 d hp =>
    cases hi
    simp only [exec, execDecDecode] at h
    split at h
    · cases h
      exact .issueDecDecode d hp ‹_›
    · split at h
      · cases h
        exact .wait
      · split at h <;> cases h
        simp only [decDecodeAnswer, takeDec_phase, hp, frameRsp]
        exact .decDecode _ _ _ d hp (by simp_all) ‹_› ‹_›
  case h_6 => cases hi

/-- The sequencer's moves. -/
theorem sequencerStep_moves {s t : State} (h : sequencerStep s = .next t) : Moves s t := by
  unfold sequencerStep at h
  split at h
  · exact adapter_moves ‹_› h
  · unfold commandStep at h
    split at h
    · split at h <;> cases h
      · exact .wait
      · exact .deliver _ ‹_›
    · rename_i hcmd
      split at h
      · rename_i i hi
        obtain rfl | ⟨p, rfl, _⟩ := commandInstr_cases hi
        · exact execCreate_moves ⟨_, _, hcmd, hi⟩ h
        · exact execPush_moves ⟨_, _, hcmd, hi⟩ h
      · cases h
        exact illegalCommand_moves (by simp [hcmd])

/-- A reader's moves. -/
theorem readerStep_moves {s t : State} (h : readerStep s = .next t) :
    t = s ∨ ∃ ws, t = answerStatus ws s := by
  unfold readerStep at h
  split at h
  · cases h
    exact .inl rfl
  · split at h
    · obtain ⟨ws, e⟩ := exec_of_statusInstr ‹_› s
      rw [e] at h
      cases h
      exact .inr ⟨ws, rfl⟩
    · cases h
      exact .inr ⟨_, rfl⟩

/-- Everything a step can do: it may take an entry off the schedule, and then one agent moves. -/
theorem step_moves {s t : State} (h : step s = .next t) :
    ∃ u, (u = s ∨ ∃ sched, u = { s with schedule := sched }) ∧ Moves u t := by
  have hr : ∀ {u}, readerStep u = .next t → Moves u t := fun h => by
    obtain rfl | ⟨ws, rfl⟩ := readerStep_moves h
    · exact .wait
    · exact .status ws
  unfold step at h
  split at h
  · exact ⟨_, .inr ⟨_, rfl⟩, sequencerStep_moves h⟩
  · exact ⟨_, .inr ⟨_, rfl⟩, hr h⟩
  · split at h
    · exact ⟨_, .inl rfl, sequencerStep_moves h⟩
    · exact ⟨_, .inl rfl, hr h⟩

end Sys2Proof.Machine
end

