-- ==== Sys2Proof/Tests/Slice0.lean ====
section
/-! SUPPORT. The model's own tests: ill-formed terms refused, words written out from the encoding tables decoded, one
step on small states against the vectors of 95_test_vectors.md (each named in its comment), and for each statement with
hypotheses a witness that meets them. The configuration is REF-SMALL (rule R11) unless a test says otherwise. -/

namespace Sys2Proof.Tests

open Sys2Proof Sys2Proof.Machine

/-! ### Ill-formed terms (rules R73, R81, R85) -/

theorem test_wf_push_short : (Instr.push [1#16, 2#16, 3#16]).wellFormed refSmall = false := by decide
theorem test_wf_readSym_past : (Instr.readSym 2).wellFormed refSmall = false := by decide
theorem test_wf_readSym_beyond_space : (Instr.readSym 240).wellFormed { refSmall with nSym := 241 } = false := by decide
theorem test_wf_readReserved_named : (Instr.readReserved 0x09#8).wellFormed refSmall = false := by decide
theorem test_wf_readReserved_symbol : (Instr.readReserved 0x11#8).wellFormed refSmall = false := by decide
theorem test_wf_demodReq_count : (Instr.demodReq 2#16 [1#16]).wellFormed refSmall = false := by decide
theorem test_wf_decRepair_short : (Instr.decRepair [true]).wellFormed refSmall = false := by decide
theorem test_wf_decDecode_long : (Instr.decDecode [1#8, 2#8]).wellFormed refSmall = false := by decide

/-! ### Words written out from rules R72, R81 and R85 -/

theorem test_decode_create : decode .command refSmall { header := 0x01000000#32 } = .ok .create := by decide
theorem test_decode_push : decode .command refSmall { header := 0x02000000#32, samples := [5#16, 6#16, 7#16, 8#16] } =
    .ok (.push [5#16, 6#16, 7#16, 8#16]) := by decide
theorem test_decode_readSess : decode .status refSmall { header := 0x00000000#32 } = .ok .readSess := by decide
theorem test_decode_readSync : decode .status refSmall { header := 0x00000001#32 } = .ok .readSync := by decide
theorem test_decode_readFsm : decode .status refSmall { header := 0x00000002#32 } = .ok .readFsm := by decide
theorem test_decode_readSeq : decode .status refSmall { header := 0x00000003#32 } = .ok .readSeq := by decide
theorem test_decode_readLock : decode .status refSmall { header := 0x00000004#32 } = .ok .readLock := by decide
theorem test_decode_readSnr : decode .status refSmall { header := 0x00000005#32 } = .ok .readSnr := by decide
theorem test_decode_readToff : decode .status refSmall { header := 0x00000006#32 } = .ok .readToff := by decide
theorem test_decode_readFoff : decode .status refSmall { header := 0x00000007#32 } = .ok .readFoff := by decide
theorem test_decode_readClkoff : decode .status refSmall { header := 0x00000008#32 } = .ok .readClkoff := by decide
theorem test_decode_readNsym : decode .status refSmall { header := 0x00000009#32 } = .ok .readNsym := by decide
theorem test_decode_readSym : decode .status refSmall { header := 0x00000011#32 } = .ok (.readSym 1) := by decide
theorem test_decode_readReserved_low :
    decode .status refSmall { header := 0x0000000F#32 } = .ok (.readReserved 0x0F#8) := by decide
theorem test_decode_readReserved_high :
    decode .status refSmall { header := 0x00000012#32 } = .ok (.readReserved 0x12#8) := by decide
theorem test_decode_readSnapshot : decode .status refSmall { header := 0x01000000#32 } = .ok .readSnapshot := by decide
theorem test_decode_demodInit : decode .demod refSmall { header := 0x10000000#32 } = .ok .demodInit := by decide
/-- V-EN-7. -/
theorem test_decode_demodReq : decode .demod refSmall { header := 0x11000004#32, samples := [9#16, 8#16, 7#16, 6#16] } =
    .ok (.demodReq 4#16 [9#16, 8#16, 7#16, 6#16]) := by decide
theorem test_decode_decInit : decode .decoder refSmall { header := 0x20000000#32 } = .ok .decInit := by decide
/-- V-EN-14. -/
theorem test_decode_decRepair : decode .decoder refSmall { header := 0x21000000#32, words := [0x6D#32] } =
    .ok (.decRepair [true, false, true, true, false, true, true, false]) := by decide
/-- V-EN-16, with `NBYTES = 2`. -/
theorem test_decode_decDecode :
    decode .decoder { refSmall with b := 8, nbytes := 2 } { header := 0x22000000#32, words := [0xCDAB#32] } =
      .ok (.decDecode [0xAB#8, 0xCD#8]) := by decide
/-- V-IL-1 to V-IL-3. -/
theorem test_illegal_opcodes :
    decode .command refSmall { header := 0x00000000#32 } = .error .reservedOpcode ∧
    decode .command refSmall { header := 0x03000000#32 } = .error .reservedOpcode ∧
    decode .command refSmall { header := 0xFF000000#32 } = .error .reservedOpcode := by decide
/-- V-IL-4, V-IL-6 and V-IL-8. -/
theorem test_illegal_fields :
    decode .command refSmall { header := 0x01000001#32 } = .error .nonzeroMbz ∧
    decode .command refSmall { header := 0x02000000#32, samples := [1#16, 2#16, 3#16] } = .error .payloadLength ∧
    decode .command refSmall { header := 0x01000000#32, samples := [1#16] } = .error .payloadLength := by decide
/-- V-ST-18 to V-ST-20. -/
theorem test_invalid_status :
    decode .status refSmall { header := 0x02000000#32 } = .error .reservedOpcode ∧
    decode .status refSmall { header := 0x00000100#32 } = .error .nonzeroMbz ∧
    decode .status refSmall { header := 0x01000005#32 } = .error .snapshotAddress := by decide
/-- Rule R84: a bit past the vector is zero on the decoder port. -/
theorem test_repair_padding :
    decode .decoder refSmall { header := 0x21000000#32, words := [0x16D#32] } = .error .nonzeroPadding := by decide
/-- Rules R53 and R54: bytes come least significant first. -/
theorem test_bytes_little_endian :
    decodeBytes .demod refSmall [0x01#8, 0x00#8, 0x00#8, 0x11#8, 0x34#8, 0x12#8] = .ok (.demodReq 1#16 [0x1234#16]) := by
  decide
/-- Rules R53 and R54 on an AUDIO response, on READ_SNAPSHOT's first words and on a decoder response. -/
theorem test_answer_bytes :
    responseBytes { word := 0x01030201#32, payload := [0x1234#16, 0xFF80#16] } =
      [0x01#8, 0x02#8, 0x03#8, 0x01#8, 0x34#8, 0x12#8, 0x80#8, 0xFF#8] ∧
    statusAnswerBytes [0x00000007#32, 0xFFFFFF00#32] =
      [0x07#8, 0x00#8, 0x00#8, 0x00#8, 0x00#8, 0xFF#8, 0xFF#8, 0xFF#8] ∧
    replyBytes { words := [1#32], samples := [0x0102#16] } = [0x01#8, 0x00#8, 0x00#8, 0x00#8, 0x02#8, 0x01#8] := by decide
theorem test_bytes_arrive :
    (replyArrives (.decDecode []) [0x01#8, 0x00#8, 0x00#8, 0x00#8, 0x02#8, 0x01#8] State.reset =
      .ok { State.reset with decIn := [{ words := [1#32], samples := [0x0102#16] }] }) ∧
    (commandArrives [0x00#8, 0x00#8, 0x00#8, 0x01#8] State.reset =
      .ok { State.reset with cmdIn := [{ header := 0x01000000#32 }] }) ∧
    commandArrives [0x00#8, 0x00#8, 0x00#8, 0x02#8, 0x05#8] State.reset = .error .truncated ∧
    (statusArrives [0x05#8, 0x00#8, 0x00#8, 0x00#8] State.reset = .ok { State.reset with statusIn := [5#32] }) :=
  ⟨rfl, rfl, rfl, rfl⟩
/-- V-EN-16 and V-EN-17: payload words. -/
theorem test_payload_words :
    bytesToWords [0xAB#8, 0xCD#8] = [0x0000CDAB#32] ∧
    bitsToWords [false, false, false, false, false, false, false, true,
      true, false, false, false, false, false, false, false] = [0x00000180#32] := by decide
theorem test_table_words :
    decodeTableWord 32 0x01000000 = some .create ∧ decodeTableWord 32 0x00000009 = some .readNsym ∧
    decodeTableWord 32 0x00000011 = some (.readSym 1) ∧ decodeTableWord 32 0x03000000 = none := by decide
/-- Rule R94 on lines of programs P1, P3 and P6. -/
theorem test_script_text :
    readLine "PUSH 10, -11, 0xFFFF, 13 ; samples".toList =
      .command (.push [.dec 10, .dec (-11), .hex 0xFFFF, .dec 13]) ∧
    readLine "READ SYM[1]".toList = .command (.readName (.sym 1)) ∧
    readLine "    repair: same".toList = .annotation .repairSame ∧
    readLine "    init: demod=1 dec=0".toList = .annotation (.init true false) ∧
    readLine ".word 0x03000000".toList = .malformed ∧ readLine " ; note".toList = .blank := by decide
theorem test_script_demod :
    readLine "    demod: valid=1 sync=0 lock=1 snr=3.00390625 next=4 bits=1011".toList =
      .annotation (.demod true false true 0x0301#16 4#16 [true, false, true, true]) := by decide
/-- V-EN-9, V-EN-11 and V-EN-12. -/
theorem test_script_reply :
    annotationReplies refSmall [] (.demod true false true 0x0500#16 4#16 [true, false, true, true]) =
      some [(.demod, { words := [0x00040005#32, 0x00000500#32, 0#32, 0#32, 0#32, 0#32, 0#32, 0x0000000D#32] })] := by
  decide
theorem test_script_lines :
    assemble (.push [.dec (-1), .hex 65535, .dec 0, .dec 7]) =
      some (.command, { header := 0x02000000#32, samples := [0xFFFF#16, 0xFFFF#16, 0#16, 7#16] }) ∧
    assemble (.push [.dec 32768]) = none ∧
    assemble (.readName (.sym 1)) = some (.status, { header := 0x00000011#32 }) ∧
    assemble .snapshot = some (.status, { header := 0x01000000#32 }) := by decide
/-- Rule R91: the value 3 is treated as UNSYNCED. -/
theorem test_fsm_code_3 : fsmOfCode 3#2 = .unsynced := by decide

/-! ### Small states -/

/-- The state an outcome goes on to. -/
def next? (o : Host.Outcome State Fault Refusal) : Option State :=
  match o with
  | .next t => some t
  | .fault _ => none
  | .refused _ => none

def samples4 : List Sample := [1#16, 2#16, 3#16, 4#16]
def pushPacket : Packet := { header := 0x02000000#32, samples := samples4 }
def createPacket : Packet := { header := 0x01000000#32 }

/-- A ring of capacity 10 or 16 whose storage starts with the samples it holds. -/
def ringOf (cap : Nat) (xs : List Sample) : Ring :=
  { mem := xs ++ List.replicate (cap - xs.length) 0#16, head := 0, occ := xs.length }

/-- A READY block between commands, with a command at its port. -/
def ready (m : Packet) : State := { State.reset with sess := .ready, cmdIn := [m] }

/-- A READY block inside a PUSH. -/
def inPush (p : Phase) (f : Fsm) : State :=
  { ready pushPacket with phase := p, fsm := f, snap := { Snapshot.zero refSmall with fsmPub := f } }

/-- A block inside a CREATE. -/
def inCreate (p : Phase) : State := { State.reset with cmdIn := [createPacket], phase := p }

/-- A demodulator response with `next_r = 4` and no symbols of note. -/
def rsp (lock sync : Bool) (snr : BitVec 16) (bits : List Bool) : DemodRsp :=
  { zeroRsp refSmall with valid := true, lock := lock, sync := sync, snr := snr, nextR := 4#16, bits := bits }

/-- The words of V-EN-8, V-EN-9 or V-EN-10, an SNR word, zero statistics, two symbols and the bits' word. -/
def demodReply (w0 snr bits : Word) : Reply := { words := [w0, snr, 0#32, 0#32, 0#32, 0#32, 0#32, bits] }

def bits1011 : List Bool := [true, false, true, true]
def bits0110 : List Bool := [false, true, true, false]

/-- The snapshot of section 2.6 of the vectors. -/
def statusState : State :=
  { ready pushPacket with
    snap :=
      { lock := true, snr := 0xFF00#16, toff := 0x10#32, foff := 0xFFFFFFF6#32, clkoff := 0x12345678#32
        sym := [0xAAAA5555#32, 1#32], fsmPub := .waitSecondHalf, seq := 7#32 } }

/-- What a status request answers. -/
def answer (i : Instr) : Option (List (List Word)) := (next? (exec i statusState)).map (·.statusOut)

/-! ### One step of each transaction -/

/-- V-CR-5: the first failing check is reported. -/
theorem test_create_config_fault :
    (next? (exec .create { inCreate .cCheck with cfg := { refSmall with inCap := 7 } })).map (fun t => (t.sess, t.phase)) =
      some (.failed, .respond { word := 0x04000003#32 }) := by decide
/-- V-CR-16: CREATE in READY resets the state machine. -/
theorem test_create_resets :
    (next? (exec .create (inPush .cReset .waitSecondHalf))).map (fun t => (t.sess, t.fsm, t.snap.fsmPub)) =
      some (.ready, .unsynced, .unsynced) := by decide
/-- V-PU-2. -/
theorem test_push_not_ready :
    (next? (exec (.push samples4) { inPush .pAccept .unsynced with sess := .failed })).map (·.phase) =
      some (.respond { word := 0x06000002#32 }) := by decide
/-- V-FSM-10: no SNR test in WAIT_FIRST_HALF. -/
theorem test_push_capture_first :
    (next? (exec (.push samples4) (inPush (.pFsm (rsp true false 0#16 bits1011)) .waitFirstHalf))).map
        (fun t => (t.fsm, t.pend)) =
      some (.waitSecondHalf, bits1011 ++ [false, false, false, false]) := by decide
/-- V-ST-1. -/
theorem test_readSess : answer .readSess = some [[0x00000001#32]] := by decide
/-- V-ST-2. -/
theorem test_readSync : answer .readSync = some [[0x00000001#32]] := by decide
/-- V-ST-3. -/
theorem test_readFsm : answer .readFsm = some [[0x00000002#32]] := by decide
/-- V-ST-4. -/
theorem test_readSeq : answer .readSeq = some [[0x00000007#32]] := by decide
/-- V-ST-5. -/
theorem test_readLock : answer .readLock = some [[0x00000001#32]] := by decide
/-- V-ST-6: sign-extended. -/
theorem test_readSnr : answer .readSnr = some [[0xFFFFFF00#32]] := by decide
/-- V-ST-7. -/
theorem test_readToff : answer .readToff = some [[0x00000010#32]] := by decide
/-- V-ST-8. -/
theorem test_readFoff : answer .readFoff = some [[0xFFFFFFF6#32]] := by decide
/-- V-ST-9. -/
theorem test_readClkoff : answer .readClkoff = some [[0x12345678#32]] := by decide
/-- V-ST-10. -/
theorem test_readNsym : answer .readNsym = some [[0x00000002#32]] := by decide
/-- V-ST-13. -/
theorem test_readSym : answer (.readSym 0) = some [[0xAAAA5555#32]] := by decide
/-- V-ST-15. -/
theorem test_readReserved : answer (.readReserved 0x12#8) = some [[0x00000000#32]] := by decide
/-- V-ST-17. -/
theorem test_readSnapshot : answer .readSnapshot =
    some [[0x00000007#32, 0x00000001#32, 0x00000002#32, 0x00000001#32, 0xFFFFFF00#32, 0x00000010#32, 0xFFFFFFF6#32,
      0x12345678#32, 0xAAAA5555#32, 0x00000001#32]] := by decide
/-- V-ST-20: an invalid request word answers one zero word. -/
theorem test_status_invalid :
    (next? (step { statusState with statusIn := [0x01000005#32] })).map (·.statusOut) = some [[0#32]] := by decide
/-- V-CR-14. -/
theorem test_demodInit_fails :
    (next? (exec .demodInit { inCreate .cDemodInit with awaiting := true, demodIn := [{ words := [0#32] }] })).map
        (fun t => (t.sess, t.phase)) =
      some (.failed, .respond { word := 0x05000001#32 }) := by decide
/-- V-EN-9 and V-EN-12: every field at its place. -/
theorem test_demodReq_answer :
    (next? (exec (.demodReq 4#16 samples4)
        { inPush .pDemodWait .unsynced with
          awaiting := true, demodIn := [demodReply 0x00040005#32 0x00000500#32 0x0000000D#32] })).map (·.phase) =
      some (.pConsume (rsp true false 0x0500#16 bits1011)) := by decide
/-- Rule R173, program P2 command 4: the `r` oldest samples of the input buffer go out. -/
theorem test_demodReq_issue :
    (next? (step { inPush .pDemodWait .unsynced with r := 3, inBuf := ringOf 10 [7#16, 7#16, 1#16, 2#16] })).map
        (·.adapterOut) =
      some [{ header := 0x11000003#32, samples := [7#16, 7#16, 1#16] }] := by decide
/-- V-CR-15. -/
theorem test_decInit_fails :
    (next? (exec .decInit { inCreate .cDecInit with awaiting := true, decIn := [{ words := [0#32] }] })).map
        (fun t => (t.sess, t.phase)) =
      some (.failed, .respond { word := 0x05000002#32 }) := by decide
/-- V-FSM-18: the repaired bits replace `PEND`. -/
theorem test_decRepair_answer :
    (next? (exec (.decRepair []) { inPush (.pRepairWait (zeroRsp refSmall)) .waitSecondHalf with
        awaiting := true, decIn := [{ words := [0x0F#32] }] })).map (·.pend) =
      some [true, true, true, true, false, false, false, false] := by decide
/-- V-FSM-16: no room, FRAME_DROP. -/
theorem test_decDecode_drop :
    (next? (exec (.decDecode []) { inPush (.pDecodeWait (zeroRsp refSmall)) .waitSecondHalf with
        awaiting := true, outBuf := ringOf 16 (zeros 9), decIn := [{ words := [1#32], samples := zeros 8 }] })).map
        (fun t => (t.fsm, t.cmdFlags, t.outBuf.occ)) =
      some (.waitFirstHalf, 0x08#8, 9) := by decide
/-- V-FSM-15: exact fit. -/
theorem test_decDecode_fits :
    (next? (exec (.decDecode []) { inPush (.pDecodeWait (zeroRsp refSmall)) .waitSecondHalf with
        awaiting := true, outBuf := ringOf 16 (zeros 8), decIn := [{ words := [1#32], samples := zeros 8 }] })).map
        (fun t => (t.cmdFlags, t.outBuf.occ)) =
      some (0x00#8, 16) := by decide

/-! ### Shared operations -/

/-- V-BUF-12. -/
theorem test_ring_append_wraps :
    ringAppend 10 { mem := [3#16, 0#16, 0#16, 0#16, 0#16, 0#16, 0#16, 0#16, 1#16, 2#16], head := 8, occ := 3 }
        [4#16, 5#16, 6#16, 7#16] =
      (true, { mem := [3#16, 4#16, 5#16, 6#16, 7#16, 0#16, 0#16, 0#16, 1#16, 2#16], head := 8, occ := 7 }) := by decide
/-- V-BUF-13. -/
theorem test_ring_consume_wraps :
    (ringConsume 10 { mem := [3#16, 4#16, 5#16, 6#16, 7#16, 0#16, 0#16, 0#16, 1#16, 2#16], head := 8, occ := 7 } 5).map
        (fun b => (b.head, b.occ, ringContents 10 b)) =
      some (3, 2, [6#16, 7#16]) := by decide
/-- V-BUF-2 and V-BUF-6. -/
theorem test_ring_limits :
    (ringAppend 10 (ringOf 10 (zeros 7)) samples4).1 = false ∧ ringConsume 10 (ringOf 10 samples4) 5 = none := by decide
/-- V-BUF-8 and V-BUF-9. -/
theorem test_ring_drain_edges :
    (ringDrain 16 (ringOf 16 samples4) 4).map (·.1) = some samples4 ∧
    ringDrain 16 (ringOf 16 [1#16, 2#16, 3#16]) 4 = none := by decide
/-- V-PACK-1, V-PACK-4, V-PACK-5 and V-PACK-7. -/
theorem test_pack :
    pack 1 (bits1011 ++ bits0110) = [0xB6#8] ∧
    pack 1 [true, false, false, false, false, false, false, false] = [0x80#8] ∧
    pack 1 [false, false, false, false, false, false, false, true] = [0x01#8] ∧
    pack 2 [true, false, true, false, true, false, true, true, true, true, false, false, true, true, false, true] =
      [0xAB#8, 0xCD#8] := by decide
/-- V-FSM-2, V-FSM-3 and V-FSM-5: the comparison is strict and signed. -/
theorem test_lock_test :
    lockTest refSmall (rsp true false 0x0300#16 []) = false ∧ lockTest refSmall (rsp true false 0x0301#16 []) = true ∧
    lockTest refSmall (rsp true false 0x8000#16 []) = false := by decide
/-- V-CR-2 to V-CR-12. -/
theorem test_config_checks :
    firstFailingCheck refSmall = none ∧ firstFailingCheck freedv1400 = none ∧
    firstFailingCheck { refSmall with b := 3 } = some 1 ∧ firstFailingCheck { refSmall with nbytes := 2 } = some 2 ∧
    firstFailingCheck { refSmall with outCap := 15 } = some 4 ∧ firstFailingCheck { refSmall with ninMin := 0 } = some 5 ∧
    firstFailingCheck { refSmall with ninMax := 6, inCap := 8 } = some 6 ∧
    firstFailingCheck { refSmall with nDrain := 17 } = some 7 ∧ firstFailingCheck { refSmall with nPush := 0 } = some 8 ∧
    firstFailingCheck { refSmall with nSym := 241 } = some 9 := by decide
/-- V-EN-3 and V-EN-4. -/
theorem test_response_words :
    responseWord .audio 0x03#8 2#8 1#8 = 0x01030201#32 ∧ responseWord .internalFault 0#8 0#8 2#8 = 0x08000002#32 := by
  decide
/-- Rules R154 and R178: the counters saturate. -/
theorem test_counters_saturate : satInc 254#8 = 255#8 ∧ satInc 255#8 = 255#8 := by decide
/-- A word of the table is fetched as the first transaction after reset. -/
theorem test_fetch_word_push :
    (next? (step (State.reset.withFetchWord 32 0x02000000))).map (·.phase) = some .pAccept := by decide

/-! ### Witnesses: a concrete state and operands that meet the hypotheses of each statement -/

theorem witness_DecodeOfEncode :
    (Instr.push samples4).WellFormed refSmall ∧ (Instr.readSym 1).WellFormed refSmall ∧
    (Instr.readReserved 0x0A#8).WellFormed refSmall ∧ (Instr.readReserved 0x12#8).WellFormed refSmall ∧
    (Instr.readReserved 0xFF#8).WellFormed refSmall ∧ (Instr.demodReq 0#16 []).WellFormed refSmall ∧
    (Instr.decRepair (bits1011 ++ bits0110)).WellFormed refSmall ∧ (Instr.decDecode [0xB6#8]).WellFormed refSmall := by
  decide
theorem witness_EncodeOfDecode :
    decode .decoder refSmall { header := 0x22000000#32, words := [0xB6#32] } = .ok (.decDecode [0xB6#8]) := by decide
theorem witness_ByteChannelRoundTrip :
    (Instr.push samples4).WellFormed refSmall ∧ 3 < 4 ∧ 3 < samples4.length ∧ 1 < 2 ∧
    ({ word := 0x01000100#32, payload := samples4 } : Response).payload.length = 4 ∧
    1 < ([7#32, 0xFFFFFF00#32] : List Word).length ∧
    (Instr.decRepair []).port = .decoder ∧ Instr.demodInit.port = .demod := by decide
theorem witness_ByteChannelRoundTrip_request : ∀ bytes, Instr.decRepair [] ≠ .decDecode bytes := fun _ h => nomatch h
theorem witness_BitVectorTransport :
    (32 < (List.replicate 33 true).length) ∧ 1 < 32 ∧ (List.replicate 33 true).length ≤ 32 * 1 + 1 := by decide
theorem witness_ScriptLinesDecode :
    ([-32768, 32767, 0, 7] : List Int).length = refSmall.nPush ∧
    (∀ v ∈ ([-32768, 32767, 0, 7] : List Int), -32768 ≤ v ∧ v ≤ 32767) ∧
    ([0xFFFF, 0, 1, 2] : List Nat).length = refSmall.nPush ∧ (∀ n ∈ ([0xFFFF, 0, 1, 2] : List Nat), n ≤ 0xFFFF) ∧
    (∃ v ∈ ([32768] : List Int), v < -32768 ∨ 32767 < v) ∧ 1 < refSmall.nSym ∧ 1 < 240 ∧ 0xFF ≤ 0xFF := by decide
theorem witness_IllegalCommandAnswered :
    (ready { header := 0x02000001#32, samples := samples4 }).phase = .idle ∧
    (ready { header := 0x02000001#32, samples := samples4 }).statusIn = [] ∧
    (ready { header := 0x02000001#32, samples := samples4 }).schedule = [] ∧
    IllegalCommand refSmall { header := 0x02000001#32, samples := samples4 } ∧
    IllegalCommand refSmall { header := 0x03000000#32 } ∧
    IllegalCommand refSmall { header := 0x01000000#32, samples := [1#16] } ∧
    IllegalCommand refSmall { header := 0x02000000#32, samples := zeros 5 } := by unfold IllegalCommand; decide
theorem witness_PackPlacesBits : (bits1011 ++ bits0110).length = 8 * 1 ∧ 7 < 8 * 1 := by decide
theorem witness_PackIsBijective : (bits1011 ++ bits0110).length = 8 * 1 := by decide
theorem witness_AppendOnSequences :
    ringWf 10 (ringOf 10 (zeros 6)) = true ∧ (ringOf 10 (zeros 6)).occ + samples4.length ≤ 10 ∧
    ringWf 10 (ringOf 10 (zeros 7)) = true ∧ (ringOf 10 (zeros 7)).occ + samples4.length > 10 := by decide
theorem witness_AppendStoresItsCells :
    ringWf 10 (ringOf 10 (zeros 6)) = true ∧ (ringOf 10 (zeros 6)).occ + samples4.length ≤ 10 ∧ 3 < samples4.length ∧
    (∀ j, j < samples4.length → 5 ≠ ((ringOf 10 (zeros 6)).head + (ringOf 10 (zeros 6)).occ + j) % 10) := by decide
theorem witness_ConsumeOnSequences :
    ringWf 10 (ringOf 10 samples4) = true ∧ 4 ≤ (ringOf 10 samples4).occ ∧ 5 > (ringOf 10 samples4).occ := by decide
theorem witness_DrainOnSequences :
    ringWf 16 (ringOf 16 samples4) = true ∧ 4 ≤ (ringOf 16 samples4).occ ∧ (ringOf 16 samples4).occ < 5 := by decide
theorem witness_PowerOnStatusReads :
    decode .status refSmall { header := 0#24 ++ 0x09#8 } = .ok .readNsym ∧
    decode .status refSmall { header := 0#24 ++ 0xFF#8 } = .ok (.readReserved 0xFF#8) := by decide
theorem witness_CreateAcceptedAndDelivered :
    State.reset.phase = .idle ∧ (inCreate .cDemodInit).phase = .cDemodInit ∧ (inCreate .cDecInit).phase = .cDecInit ∧
    (inCreate (.respond { word := 0#32 })).phase = .respond { word := 0#32 } := by decide
theorem witness_CreateResetsState : (inPush .cReset .waitSecondHalf).phase = .cReset := by decide
theorem witness_CreateReportsFirstFailingCheck_fails :
    (inCreate .cCheck).phase = .cCheck ∧ ¬ CheckHolds { refSmall with nSym := 241 } 9 ∧
    (∀ j, 1 ≤ j → j < 9 → CheckHolds { refSmall with nSym := 241 } j) := by
  refine ⟨rfl, by simp [CheckHolds], fun j h1 h2 => ?_⟩
  interval_cases j <;> simp [CheckHolds, refSmall]
theorem witness_CreateReportsFirstFailingCheck_first :
    ¬ CheckHolds { refSmall with b := 3 } 1 ∧ (∀ j, 1 ≤ j → j < 1 → CheckHolds { refSmall with b := 3 } j) := by
  refine ⟨by simp [CheckHolds], fun j h1 h2 => ?_⟩
  omega
theorem refSmall_checks : ∀ j, 1 ≤ j → j ≤ 9 → CheckHolds refSmall j := by
  intro j h1 h2
  interval_cases j <;> simp [CheckHolds, refSmall]
theorem witness_CreateReportsFirstFailingCheck_passes :
    (inCreate .cCheck).phase = .cCheck ∧ ∀ j, 1 ≤ j → j ≤ 9 → CheckHolds (inCreate .cCheck).cfg j :=
  ⟨rfl, refSmall_checks⟩

/-- A block that has not run yet, with a CREATE at its port and both adapters answering `ok = 1`. -/
def createReady : State :=
  { State.reset with cmdIn := [createPacket], demodIn := [{ words := [1#32] }], decIn := [{ words := [1#32] }] }

theorem witness_CreateRunsToReady :
    createReady.phase = .idle ∧ createReady.awaiting = false ∧ createReady.statusIn = [] ∧ createReady.schedule = [] ∧
    createReady.cmdIn = { header := 0x01000000#32 } :: [] ∧ (∀ j, 1 ≤ j → j ≤ 9 → CheckHolds createReady.cfg j) ∧
    createReady.demodIn = { words := [1#32] } :: [] ∧ (1#32 : Word).getLsbD 0 = true ∧
    createReady.decIn = { words := [1#32] } :: [] :=
  ⟨rfl, rfl, rfl, rfl, rfl, refSmall_checks, rfl, by decide, rfl⟩

/-- A block inside CREATE whose request is outstanding and answered with the given `ok` words. -/
def initAnswered (p : Phase) (ok : Word) : State :=
  { inCreate p with awaiting := true, demodIn := [{ words := [ok] }], decIn := [{ words := [ok] }] }

theorem witness_DemodInitCompletes :
    (inCreate .cDemodInit).phase = .cDemodInit ∧ (initAnswered .cDemodInit 1#32).phase = .cDemodInit ∧
    (inCreate .cDemodInit).awaiting = false ∧ (initAnswered .cDemodInit 1#32).awaiting = true ∧
    (initAnswered .cDemodInit 1#32).demodIn = { words := [1#32] } :: [] ∧ (1#32 : Word).getLsbD 0 = true ∧
    (initAnswered .cDemodInit 0xFFFFFFFE#32).demodIn = { words := [0xFFFFFFFE#32] } :: [] ∧
    (0xFFFFFFFE#32 : Word).getLsbD 0 = false := by decide
theorem witness_DecInitCompletes :
    (inCreate .cDecInit).phase = .cDecInit ∧ (initAnswered .cDecInit 1#32).phase = .cDecInit ∧
    (inCreate .cDecInit).awaiting = false ∧ (initAnswered .cDecInit 1#32).awaiting = true ∧
    (initAnswered .cDecInit 1#32).decIn = { words := [1#32] } :: [] ∧ (1#32 : Word).getLsbD 0 = true ∧
    (initAnswered .cDecInit 0xFFFFFFFE#32).decIn = { words := [0xFFFFFFFE#32] } :: [] ∧
    (0xFFFFFFFE#32 : Word).getLsbD 0 = false := by decide

/-- A block about to hand `r = 4` samples over, exactly as many as it holds. -/
def handOff : State := { inPush .pDemodWait .unsynced with inBuf := ringOf 10 samples4 }

theorem witness_DemodReqHandsOverOldestSamples :
    handOff.phase = .pDemodWait ∧ handOff.awaiting = false ∧ handOff.statusIn = [] ∧ handOff.schedule = [] ∧
    ringWf handOff.cfg.inCap handOff.inBuf = true ∧ handOff.r ≤ handOff.inBuf.occ ∧ handOff.r ≤ 65535 := by decide
theorem witness_DemodReqCompletes :
    handOff.phase = .pDemodWait ∧
    handOff.awaiting = false ∧
    ({ handOff with awaiting := true, demodIn := [demodReply 0x00040005#32 0x0500#32 0x0D#32] } : State).demodIn =
      { words := 0x00040005#32 :: 0x0500#32 :: 0#32 :: 0#32 :: 0#32 :: ([0#32, 0#32] ++ [0x0D#32]) } :: [] ∧
    [0#32, 0#32].length = handOff.cfg.nSym ∧ [0x0D#32].length = (handOff.cfg.b + 31) / 32 := by decide

/-- A block that waits for its decoder adapter. -/
def waiting (p : Phase) (y : Reply) : State := { inPush p .waitSecondHalf with awaiting := true, decIn := [y] }

theorem witness_DecRepairCompletes :
    (inPush (.pRepairWait (zeroRsp refSmall)) .waitSecondHalf).statusIn = [] ∧
    (inPush (.pRepairWait (zeroRsp refSmall)) .waitSecondHalf).schedule = [] ∧
    (inPush (.pRepairWait (zeroRsp refSmall)) .waitSecondHalf).phase = .pRepairWait (zeroRsp refSmall) ∧
    (inPush (.pRepairWait (zeroRsp refSmall)) .waitSecondHalf).awaiting = false ∧
    (waiting (.pRepairWait (zeroRsp refSmall)) { words := [0x6D#32] }).awaiting = true ∧
    [0x6D#32].length = (2 * refSmall.b + 31) / 32 ∧
    (waiting (.pRepairWait (zeroRsp refSmall)) { words := [0x6D#32] }).decIn = { words := [0x6D#32] } :: [] := by decide

/-- A block about to call its decoder. -/
def decodeTurn : State := inPush (.pDecodeWait (zeroRsp refSmall)) .waitSecondHalf

theorem witness_DecodeGetsPackedFrame :
    decodeTurn.phase = .pDecodeWait (zeroRsp refSmall) ∧ decodeTurn.awaiting = false ∧ decodeTurn.statusIn = [] ∧
    decodeTurn.schedule = [] ∧ 2 * decodeTurn.cfg.b = 8 * decodeTurn.cfg.nbytes ∧
    4 < ([1#8, 2#8, 3#8, 4#8, 5#8] : List Byte).length := by decide

/-- A block whose decoder has answered, with `n` samples in its output buffer. -/
def decoded (ok : Word) (n : Nat) : State :=
  { waiting (.pDecodeWait (zeroRsp refSmall)) { words := [ok], samples := zeros 8 } with outBuf := ringOf 16 (zeros n) }

theorem witness_DecDecodeAnswers :
    (decoded 1#32 8).phase = .pDecodeWait (zeroRsp refSmall) ∧ (decoded 1#32 8).awaiting = true ∧
    (decoded 1#32 8).decIn = { words := [1#32], samples := zeros 8 } :: [] ∧
    ringWf 10 (decoded 1#32 8).inBuf = true ∧ ringWf 16 (decoded 1#32 8).outBuf = true ∧
    (1#32 : Word).getLsbD 0 = true ∧ (zeros 8).length = refSmall.frameOut ∧
    (decoded 1#32 8).outBuf.occ + refSmall.frameOut ≤ refSmall.outCap := by decide
theorem witness_DecDecodeAnswers_drop :
    (decoded 1#32 9).phase = .pDecodeWait (zeroRsp refSmall) ∧ (decoded 1#32 9).awaiting = true ∧
    (decoded 1#32 9).decIn = { words := [1#32], samples := zeros 8 } :: [] ∧
    ringWf 10 (decoded 1#32 9).inBuf = true ∧ ringWf 16 (decoded 1#32 9).outBuf = true ∧
    (decoded 1#32 9).outBuf.occ + refSmall.frameOut > refSmall.outCap := by decide
theorem witness_DecDecodeAnswers_fail :
    (decoded 0#32 0).phase = .pDecodeWait (zeroRsp refSmall) ∧ (decoded 0#32 0).awaiting = true ∧
    ringWf 10 (decoded 0#32 0).inBuf = true ∧ ringWf 16 (decoded 0#32 0).outBuf = true ∧
    (decoded 0#32 0).decIn = { words := [0#32], samples := zeros 8 } :: [] ∧ (0#32 : Word).getLsbD 0 = false := by decide
theorem witness_SilentAdapterStallsBlock :
    ({ handOff with awaiting := true } : State).awaiting = true ∧ handOff.statusIn = [] ∧ handOff.schedule = [] ∧
    handOff.phase = .pDemodWait ∧ handOff.demodIn = [] ∧ decodeTurn.statusIn = [] ∧ decodeTurn.schedule = [] ∧
    decodeTurn.phase = .pDecodeWait (zeroRsp refSmall) ∧ decodeTurn.decIn = [] := by decide
theorem witness_OnlyMalformedResponsesRefused :
    exec .demodInit { initAnswered .cDemodInit 1#32 with demodIn := [{ words := [1#32], samples := [0#16] }] } =
      .refused .malformedAdapterResponse ∧
    exec (.demodReq 0#16 []) { handOff with awaiting := true, demodIn := [{ words := [1#32] }] } =
      .refused .malformedAdapterResponse ∧
    exec .decInit { initAnswered .cDecInit 1#32 with decIn := [{ words := [] }] } =
      .refused .malformedAdapterResponse ∧
    exec (.decRepair []) (waiting (.pRepairWait (zeroRsp refSmall)) { words := [0#32, 0#32] }) =
      .refused .malformedAdapterResponse ∧
    exec (.decDecode []) (waiting (.pDecodeWait (zeroRsp refSmall)) { words := [1#32], samples := zeros 7 }) =
      .refused .malformedAdapterResponse ∧
    (next? (exec (.decDecode []) (waiting (.pDecodeWait (zeroRsp refSmall)) { words := [0#32], samples := zeros 7 }))).isSome =
      true := ⟨rfl, rfl, rfl, rfl, rfl, rfl⟩
theorem witness_PushAcceptedAndDelivered :
    (ready pushPacket).phase = .idle ∧ handOff.phase = .pDemodWait ∧ decodeTurn.phase = .pDecodeWait (zeroRsp refSmall) ∧
    (inPush (.pRepairWait (zeroRsp refSmall)) .waitSecondHalf).phase = .pRepairWait (zeroRsp refSmall) ∧
    (inPush (.respond { word := 0#32 }) .unsynced).phase = .respond { word := 0#32 } := by decide
theorem witness_PushRefusalsChangeNothing :
    ({ inPush .pAccept .unsynced with sess := .none } : State).phase = .pAccept ∧
    ({ inPush .pAccept .unsynced with sess := .failed } : State).sess = .failed ∧
    (inPush .pAccept .unsynced).sess = .ready ∧
    ({ inPush .pAccept .unsynced with inBuf := ringOf 10 (zeros 7) } : State).inBuf.occ + refSmall.nPush > refSmall.inCap := by
  decide
theorem witness_PushClearsAndAppends :
    (inPush .pAccept .unsynced).phase = .pAccept ∧ (inPush .pAccept .unsynced).sess = .ready ∧
    ({ inPush .pAccept .unsynced with inBuf := ringOf 10 (zeros 6) } : State).inBuf.occ + refSmall.nPush ≤ refSmall.inCap ∧
    samples4.length = refSmall.nPush ∧ ringWf 10 (ringOf 10 (zeros 6)) = true ∧
    ringWf 16 (inPush .pAccept .unsynced).outBuf = true := by decide
theorem witness_LoopRunsWhileFilled :
    (inPush .pLoopTest .unsynced).phase = .pLoopTest ∧ (inPush .pLoopTest .unsynced).inBuf.occ < 4 ∧
    ({ inPush .pLoopTest .unsynced with inBuf := ringOf 10 samples4 } : State).r ≤ (ringOf 10 samples4).occ := by decide

/-- A block that consumes the `r = 4` samples it holds, on an invalid (`next_r = 0`) or a valid response. -/
def consuming (d : DemodRsp) : State := { inPush (.pConsume d) .unsynced with inBuf := ringOf 10 samples4 }

theorem witness_ConsumeThenValidity :
    (consuming (zeroRsp refSmall)).phase = .pConsume (zeroRsp refSmall) ∧ (zeroRsp refSmall).valid = false ∧
    (consuming (rsp false false 0#16 bits1011)).r ≤ (consuming (rsp false false 0#16 bits1011)).inBuf.occ ∧
    ringWf 10 (ringOf 10 samples4) = true ∧ ringWf 16 (consuming (zeroRsp refSmall)).outBuf = true ∧
    responseValid refSmall (rsp false false 0#16 bits1011) = true ∧
    responseValid refSmall { rsp false false 0#16 bits1011 with nextR := 3#16 } = true ∧
    responseValid refSmall { rsp false false 0#16 bits1011 with nextR := 5#16 } = true := by decide
theorem witness_InternalFaultEndsCommand :
    (inPush (.pConsume (zeroRsp refSmall)) .unsynced).inBuf.occ < (inPush (.pConsume (zeroRsp refSmall)) .unsynced).r ∧
    ({ inPush .pAppend .unsynced with outBuf := ringOf 17 (zeros 17) } : State).outBuf.occ > refSmall.outCap ∧
    (ringAppend 10 (ringOf 11 (zeros 11)) samples4).2.occ > refSmall.inCap ∧
    (inPush .pAppend .unsynced).phase = .pAppend ∧ decodeTurn.awaiting = false ∧
    decodeTurn.phase = .pDecodeWait (zeroRsp refSmall) ∧
    2 * ({ refSmall with b := 3 } : Config).b ≠ 8 * ({ refSmall with b := 3 } : Config).nbytes := by decide

/-- A block before a state machine step. -/
def stepping (f : Fsm) (d : DemodRsp) (out : Nat) : State :=
  { inPush (.pFsm d) f with outBuf := ringOf 16 (zeros out) }

/-- V-FSM-7 and V-FSM-8, at both sides of the exact fit, and V-FSM-2 and V-FSM-3, at both sides of the threshold. -/
theorem witness_UnsyncedStep :
    (stepping .unsynced (rsp true false 0x0301#16 bits1011) 12).phase = .pFsm (rsp true false 0x0301#16 bits1011) ∧
    (stepping .unsynced (rsp true false 0x0301#16 bits1011) 12).fsm = .unsynced ∧
    ringWf 10 (stepping .unsynced (rsp true false 0x0301#16 bits1011) 12).inBuf = true ∧
    ringWf 16 (ringOf 16 (zeros 12)) = true ∧ ringWf 16 (ringOf 16 (zeros 13)) = true ∧
    (0x0301#16 : BitVec 16).toInt > refSmall.snrThr.toInt ∧ ¬ (0x0300#16 : BitVec 16).toInt > refSmall.snrThr.toInt ∧
    (ringOf 16 (zeros 12)).occ + refSmall.nNom ≤ 16 ∧ (ringOf 16 (zeros 13)).occ + refSmall.nNom > 16 := by decide
theorem witness_WaitFirstStep :
    (stepping .waitFirstHalf (rsp true false 0#16 bits1011) 0).fsm = .waitFirstHalf ∧
    (rsp true false 0#16 bits1011).bits.length = refSmall.b ∧
    (stepping .waitFirstHalf (rsp true false 0#16 bits1011) 0).pend.length = 2 * refSmall.b ∧
    (stepping .waitFirstHalf (rsp true true 0#16 bits1011) 0).phase = .pFsm (rsp true true 0#16 bits1011) ∧
    (stepping .waitFirstHalf (rsp false false 0#16 bits1011) 0).phase = .pFsm (rsp false false 0#16 bits1011) := by decide
theorem witness_WaitSecondStep :
    (stepping .waitSecondHalf (rsp true true 0#16 bits0110) 0).fsm = .waitSecondHalf ∧
    (rsp true true 0#16 bits0110).bits.length = refSmall.b ∧
    (stepping .waitSecondHalf (rsp true true 0#16 bits0110) 0).pend.length = 2 * refSmall.b ∧
    (stepping .waitSecondHalf (rsp true false 0#16 bits0110) 0).phase = .pFsm (rsp true false 0#16 bits0110) ∧
    (stepping .waitSecondHalf (rsp false true 0#16 bits0110) 0).phase = .pFsm (rsp false true 0#16 bits0110) := by decide
theorem witness_PublishWritesWholeSnapshot :
    (inPush (.pPublish (zeroRsp refSmall)) .unsynced).phase = .pPublish (zeroRsp refSmall) := by decide

/-- A block before its drain, with `n` samples in its output buffer. -/
def draining (n : Nat) : State := { inPush .pDrain .unsynced with outBuf := ringOf 16 (zeros n) }

theorem witness_DrainAnswersPush :
    (draining 4).phase = .pDrain ∧ ringWf 10 (draining 4).inBuf = true ∧ ringWf 16 (draining 4).outBuf = true ∧
    refSmall.nDrain ≤ (draining 4).outBuf.occ ∧
    ringWf 16 (draining 3).outBuf = true ∧ (draining 3).outBuf.occ < refSmall.nDrain := by decide
theorem witness_ReadsComplete : 1 < refSmall.nSym ∧ (Instr.readReserved 0x12#8).WellFormed refSmall := by decide

/-- A block in the middle of a PUSH, a status request waiting, a reader's move next. -/
def reading (w : Word) : State := { handOff with statusIn := [w], schedule := [.reader] }

theorem witness_ReadWordFollowsRegisterMap :
    (reading 0x000000FF#32).statusIn = (0#24 ++ 0xFF#8) :: [] ∧ (reading 0x000000FF#32).schedule = .reader :: [] := by decide
theorem witness_StatusReadsChangeNothing :
    ¬ ValidStatusWord 0x00000100#32 ∧ ¬ ValidStatusWord 0x01000001#32 ∧ ¬ ValidStatusWord 0x02000000#32 ∧
    (reading 0x00000100#32).statusIn = 0x00000100#32 :: [] ∧ (reading 0x00000100#32).schedule = .reader :: [] := by
  unfold ValidStatusWord; decide
theorem witness_StepRunsDecodedTransaction :
    decode .status refSmall { header := 0x00000005#32 } = .ok .readSnr ∧
    (reading 0x00000005#32).statusIn = 0x00000005#32 :: [] ∧ (reading 0x00000005#32).schedule = .reader :: [] ∧
    adapterInstr handOff = some (.demodReq 4#16 samples4) ∧ handOff.schedule = [] ∧ handOff.statusIn = [] ∧
    adapterInstr (ready createPacket) = none ∧ (ready createPacket).cmdIn = createPacket :: [] ∧
    decode .command refSmall createPacket = .ok .create ∧ (ready createPacket).schedule = [] := by decide

/-! ### Witnesses for the statements over the invariant -/

theorem pushPacket_decodes (s : State) (h : s.cmdIn = [pushPacket]) (hc : s.cfg = refSmall) :
    ∃ m rest p, s.cmdIn = m :: rest ∧ commandInstr s.cfg m = .ok (.push p) :=
  ⟨pushPacket, [], samples4, h, by rw [hc]; decide⟩

theorem ready_inv : Inv (ready pushPacket) :=
  { inWf := by decide, outWf := by decide, pendLength := by decide, symLength := by decide, readyConfig := by decide
    requestRange := by decide, published := by decide, phaseOk := And.intro rfl fun _ => by decide, commandOk := trivial }

theorem capture_inv : Inv (stepping .waitFirstHalf (rsp true false 0#16 bits1011) 0) :=
  { inWf := by decide, outWf := by decide, pendLength := by decide, symLength := by decide, readyConfig := by decide
    requestRange := by decide, published := by decide, phaseOk := And.intro rfl (And.intro rfl (by decide))
    commandOk := pushPacket_decodes _ rfl rfl }

theorem complete_inv : Inv (stepping .waitSecondHalf (rsp true true 0#16 bits0110) 0) :=
  { inWf := by decide, outWf := by decide, pendLength := by decide, symLength := by decide, readyConfig := by decide
    requestRange := by decide, published := by decide, phaseOk := And.intro rfl (And.intro rfl (by decide))
    commandOk := pushPacket_decodes _ rfl rfl }

theorem repair_inv : Inv (waiting (.pRepairWait (zeroRsp refSmall)) { words := [0x6D#32] }) :=
  { inWf := by decide, outWf := by decide, pendLength := by decide, symLength := by decide, readyConfig := by decide
    requestRange := by decide, published := by decide, phaseOk := And.intro rfl (And.intro (by decide) rfl)
    commandOk := pushPacket_decodes _ rfl rfl }

theorem decode_inv : Inv decodeTurn :=
  { inWf := by decide, outWf := by decide, pendLength := by decide, symLength := by decide, readyConfig := by decide
    requestRange := by decide, published := by decide, phaseOk := And.intro rfl (And.intro (by decide) rfl)
    commandOk := pushPacket_decodes _ rfl rfl }

theorem drain_inv : Inv (draining 4) :=
  { inWf := by decide, outWf := by decide, pendLength := by decide, symLength := by decide, readyConfig := by decide
    requestRange := by decide, published := by decide, phaseOk := And.intro rfl (And.intro rfl (by decide))
    commandOk := pushPacket_decodes _ rfl rfl }

theorem witness_StepKeepsInvariant :
    Inv (stepping .waitFirstHalf (rsp true false 0#16 bits1011) 0) ∧
    ∃ t, step (stepping .waitFirstHalf (rsp true false 0#16 bits1011) 0) = .next t := ⟨capture_inv, _, rfl⟩
theorem witness_InvariantExcludesFaults : Inv (ready pushPacket) := ready_inv
theorem witness_NoInternalFaultOrBackpressure :
    Inv (draining 4) ∧ ∃ t rsp, step (draining 4) = .next t ∧ t.phase = .respond rsp := ⟨drain_inv, _, _, rfl, rfl⟩

/-- V-SCH-2: a PUSH that runs one iteration, with the demodulator's answer and a decoder's two answers waiting. -/
def onePush : State :=
  { ready pushPacket with
    demodIn := [demodReply 0x00040001#32 0#32 0#32, demodReply 0x00040001#32 0#32 0#32]
    decIn := [{ words := [0#32] }, { words := [0#32] }, { words := [0#32] }, { words := [0#32] }] }

theorem onePush_inv : Inv onePush :=
  { inWf := by decide, outWf := by decide, pendLength := by decide, symLength := by decide, readyConfig := by decide
    requestRange := by decide, published := by decide, phaseOk := And.intro rfl fun _ => by decide, commandOk := trivial }

theorem onePush_atPort : PushAtPort onePush samples4 [] :=
  { idle := rfl, ready := rfl, quiet := ⟨rfl, rfl⟩, command := ⟨pushPacket, rfl, by decide⟩ }

theorem witness_IdleReadyFacts :
    Inv onePush ∧ onePush.cfg = refSmall ∧
    ∃ t, Host.Core.run Sys2Proof.core 12 onePush = .next t ∧ t.phase = .idle ∧ t.sess = .ready :=
  ⟨onePush_inv, rfl, _, rfl, rfl, rfl⟩
theorem witness_SnapshotWriters :
    ∃ t, step (inPush (.pPublish (zeroRsp refSmall)) .unsynced) = .next t ∧
      t.snap ≠ (inPush (.pPublish (zeroRsp refSmall)) .unsynced).snap := ⟨_, rfl, by decide⟩
theorem witness_SessionStateWriters :
    ∃ t, step (initAnswered .cDecInit 1#32) = .next t ∧ t.sess ≠ (initAnswered .cDecInit 1#32).sess := ⟨_, rfl, by decide⟩
theorem witness_SessionStateWriters_failed :
    ∃ t, step (initAnswered .cDemodInit 0#32) = .next t ∧ t.sess = .failed ∧
      t.sess ≠ (initAnswered .cDemodInit 0#32).sess := ⟨_, rfl, rfl, by decide⟩
theorem witness_FsmWriters :
    ∃ t, step (stepping .waitFirstHalf (rsp true false 0#16 bits1011) 0) = .next t ∧ t.fsm ≠ .waitFirstHalf :=
  ⟨_, rfl, by decide⟩
theorem witness_LockLossForcesUnsynced :
    (stepping .waitSecondHalf (rsp false true 0#16 bits0110) 0).phase = .pFsm (rsp false true 0#16 bits0110) ∧
    (rsp false true 0#16 bits0110).lock = false ∧
    (stepping .waitSecondHalf (rsp false true 0#16 bits0110) 0).fsm ≠ .unsynced ∧
    ringWf 10 (stepping .waitSecondHalf (rsp false true 0#16 bits0110) 0).inBuf = true ∧
    ringWf 16 (stepping .waitSecondHalf (rsp false true 0#16 bits0110) 0).outBuf = true := by decide
theorem witness_DecodeOnlyAfterBothHalves_enter :
    Inv (stepping .waitFirstHalf (rsp true false 0#16 bits1011) 0) ∧
    ∃ t, step (stepping .waitFirstHalf (rsp true false 0#16 bits1011) 0) = .next t ∧ t.fsm = .waitSecondHalf :=
  ⟨capture_inv, _, rfl, rfl⟩
theorem witness_DecodeOnlyAfterBothHalves_complete :
    Inv (stepping .waitSecondHalf (rsp true true 0#16 bits0110) 0) ∧
    ∃ t, step (stepping .waitSecondHalf (rsp true true 0#16 bits0110) 0) = .next t ∧
      t.phase = .pRepairWait (rsp true true 0#16 bits0110) := ⟨complete_inv, _, rfl, rfl⟩
theorem witness_DecodeOnlyAfterBothHalves_repair :
    Inv (waiting (.pRepairWait (zeroRsp refSmall)) { words := [0x6D#32] }) ∧
    ∃ t, step (waiting (.pRepairWait (zeroRsp refSmall)) { words := [0x6D#32] }) = .next t ∧
      t.phase = .pDecodeWait (zeroRsp refSmall) := ⟨repair_inv, _, rfl, rfl⟩
theorem witness_DecodeOnlyAfterBothHalves_decode :
    Inv decodeTurn ∧ ∃ t m, step decodeTurn = .next t ∧ t.decCnt ≠ decodeTurn.decCnt ∧
      t.adapterOut = decodeTurn.adapterOut ++ [m] ∧ opField m.header = 0x22#8 :=
  ⟨decode_inv, _, _, rfl, by decide, rfl, by decide⟩
theorem witness_OneOutstandingRequest :
    (∃ t, step handOff = .next t ∧ handOff.awaiting = false ∧ t.awaiting = true) ∧
    ∃ t, step (initAnswered .cDecInit 1#32) = .next t ∧ (initAnswered .cDecInit 1#32).awaiting = true ∧
      t.awaiting = false ∧ t.decIn ≠ (initAnswered .cDecInit 1#32).decIn := ⟨⟨_, rfl, rfl, rfl⟩, _, rfl, rfl, rfl, by decide⟩
theorem witness_CommandHeldUntilResponse :
    ∃ t, step (inPush (.respond { word := 0x02000000#32 }) .unsynced) = .next t ∧
      t.cmdIn ≠ (inPush (.respond { word := 0x02000000#32 }) .unsynced).cmdIn ∧ t.hostOut ≠ [] :=
  ⟨_, rfl, by decide, by decide⟩
theorem witness_BufferWriters :
    (∃ t, step (inPush .pAppend .unsynced) = .next t ∧ t.inBuf ≠ (inPush .pAppend .unsynced).inBuf) ∧
    ∃ t, step (draining 4) = .next t ∧ t.outBuf ≠ (draining 4).outBuf := ⟨⟨_, rfl, by decide⟩, _, rfl, by decide⟩
theorem witness_ConfigurationConstant : ∃ t, Host.Core.run Sys2Proof.core 12 onePush = .next t := ⟨_, rfl⟩
theorem witness_OpaqueStatisticsNeverSteer :
    (rsp true false 0#16 bits1011).lock = ({ rsp true false 1#16 bits1011 with toff := 5#32 } : DemodRsp).lock ∧
    (stepping .waitFirstHalf (rsp true false 0#16 bits1011) 0).fsm ≠ .unsynced ∧
    (rsp true false 0#16 bits1011).snr = ({ rsp true false 0#16 bits1011 with toff := 5#32 } : DemodRsp).snr := by decide
theorem witness_PushRefinesPseudocode :
    Inv onePush ∧ PushAtPort onePush samples4 [] ∧
    ∃ a out demod dec, pushPass onePush.cfg samples4 (sessionOf onePush) onePush.demodIn onePush.decIn =
      some (a, out, demod, dec) := ⟨onePush_inv, onePush_atPort, _, _, _, _, rfl⟩
/-- The pseudocode's PUSH gives V-SCH-2's response, makes one request and leaves the second demodulator answer. -/
theorem test_pushPass_one_iteration :
    (pushPass onePush.cfg samples4 (sessionOf onePush) onePush.demodIn onePush.decIn).map
        (fun x => (x.2.1, x.2.2.1.length, x.1.asked)) =
      some ({ word := 0x01000100#32, payload := zeros 4 }, 1, [{ header := 0x11000004#32, samples := samples4 }]) := by
  decide
theorem witness_PushCompletesInBoundedSteps :
    Inv onePush ∧ PushAtPort onePush samples4 [] ∧ 2 = (refSmall.ninMax - 1 + refSmall.nPush) / refSmall.ninMin ∧
    2 ≤ onePush.demodIn.length ∧ (∀ y ∈ onePush.demodIn.take 2, (parseDemod onePush.cfg y).isSome = true) ∧
    2 * 2 ≤ onePush.decIn.length ∧
    (∀ j, j < 2 → ∃ y z, onePush.decIn[2 * j]? = some y ∧ onePush.decIn[2 * j + 1]? = some z ∧
      (parseRepair onePush.cfg y).isSome = true ∧ (parseDecode onePush.cfg z).isSome = true) := by
  refine ⟨onePush_inv, onePush_atPort, by decide, by decide, by decide, by decide, fun j hj => ?_⟩
  interval_cases j <;> exact ⟨_, _, rfl, rfl, by decide, by decide⟩

end Sys2Proof.Tests
end

section
/-! PROOF. The configuration is a constant of the block (rule R9): no operation of a step writes the record, so no
move of an agent does, and a run is a chain of such moves. -/

namespace Sys2Proof.Machine

/-! ### No operation writes the configuration -/

@[simp] theorem createCheck_cfg (s : State) : (createCheck s).cfg = s.cfg := by
  obtain ⟨_, e⟩ | ⟨k, _, e⟩ := createCheck_cases s <;> rw [e]
  rfl

@[simp] theorem pushAccept_cfg (s : State) : (pushAccept s).cfg = s.cfg := by
  obtain ⟨_, e⟩ | ⟨_, _, e⟩ | ⟨_, _, e⟩ := pushAccept_cases s <;> rw [e]
  · rfl
  · rfl

@[simp] theorem afterBufferOp_cfg (p : Phase) (s : State) : (afterBufferOp p s).cfg = s.cfg := by
  unfold afterBufferOp
  split <;> rfl

@[simp] theorem pushAppend_cfg (p : List Sample) (s : State) : (pushAppend p s).cfg = s.cfg :=
  afterBufferOp_cfg _ _

@[simp] theorem pushLoopTest_cfg (s : State) : (pushLoopTest s).cfg = s.cfg := by
  obtain ⟨_, e⟩ | ⟨_, e⟩ := pushLoopTest_cases s <;> rw [e]

@[simp] theorem pushConsume_cfg (d : DemodRsp) (s : State) : (pushConsume d s).cfg = s.cfg := by
  obtain ⟨_, e⟩ | ⟨_, ⟨_, e⟩ | ⟨_, e⟩ | ⟨_, e⟩⟩ := pushConsume_cases d s <;> rw [e]
  · rfl
  · rfl
  · rfl

@[simp] theorem pushPublish_cfg (d : DemodRsp) (s : State) : (pushPublish d s).cfg = s.cfg := rfl

@[simp] theorem pushDrain_cfg (s : State) : (pushDrain s).cfg = s.cfg := by
  unfold pushDrain
  split
  · dsimp only
    split <;> rfl
  · split <;> rfl

@[simp] theorem stepUnsynced_cfg (d : DemodRsp) (s : State) : (stepUnsynced d s).cfg = s.cfg := by
  unfold stepUnsynced
  split
  · dsimp only
    split <;> rfl
  · rfl

@[simp] theorem stepWaitFirst_cfg (d : DemodRsp) (s : State) : (stepWaitFirst d s).cfg = s.cfg := by
  obtain ⟨_, e⟩ | ⟨_, _, e⟩ | ⟨_, _, e⟩ := stepWaitFirst_cases d s <;> rw [e] <;> rfl

@[simp] theorem stepWaitSecond_cfg (d : DemodRsp) (s : State) : (stepWaitSecond d s).cfg = s.cfg := by
  obtain ⟨_, e⟩ | ⟨_, _, e⟩ | ⟨_, _, e⟩ := stepWaitSecond_cases d s <;> rw [e]
  · rfl
  · rfl

@[simp] theorem fsmStep_cfg (d : DemodRsp) (s : State) : (fsmStep d s).cfg = s.cfg := by
  unfold fsmStep
  split
  · exact stepUnsynced_cfg d s
  · exact stepWaitFirst_cfg d s
  · exact stepWaitSecond_cfg d s

@[simp] theorem finishFrame_cfg (audio : Option (List Sample)) (d : DemodRsp) (s : State) :
    (finishFrame audio d s).cfg = s.cfg := by
  unfold finishFrame
  split
  · rfl
  · split
    · dsimp only
      split <;> rfl
    · rfl

@[simp] theorem demodInitAnswer_cfg (ok : Bool) (s : State) : (demodInitAnswer ok s).cfg = s.cfg := by
  cases ok <;> rfl

@[simp] theorem decInitAnswer_cfg (ok : Bool) (s : State) : (decInitAnswer ok s).cfg = s.cfg := by
  cases ok <;> rfl

@[simp] theorem demodReqAnswer_cfg (d : DemodRsp) (s : State) : (demodReqAnswer d s).cfg = s.cfg := rfl

@[simp] theorem decDecodeIssue_cfg (bytes : List Byte) (s : State) : (decDecodeIssue bytes s).cfg = s.cfg := by
  unfold decDecodeIssue
  split <;> rfl

/-! ### Moves, steps and runs -/

/-- No move of either agent writes the configuration. -/
theorem Moves.cfg_eq {s t : State} (h : Moves s t) : t.cfg = s.cfg := by
  cases h <;> simp

/-- Taking an entry off the schedule leaves the configuration, and so does the move after it. -/
theorem step_cfg {s t : State} (h : step s = .next t) : t.cfg = s.cfg := by
  obtain ⟨u, hu, hm⟩ := step_moves h
  have hus : u.cfg = s.cfg := by
    obtain rfl | ⟨sched, rfl⟩ := hu <;> rfl
  exact hm.cfg_eq.trans hus

/-- A machine's run of one step more goes on exactly when its first step does and the rest goes on from there. -/
theorem run_succ_eq_next {M : Host.Core} {n : Nat} {s t : M.State} :
    M.run (n + 1) s = .next t ↔ ∃ u, M.step s = .next u ∧ M.run n u = .next t := by
  rw [Host.Core.run]
  cases M.step s <;> simp

/-- What every step of a machine keeps, a run of any length keeps. -/
theorem run_keeps {M : Host.Core} {P : M.State → Prop} (hstep : ∀ s t, M.step s = .next t → P s → P t) (n : Nat)
    {s t : M.State} (h : M.run n s = .next t) (hs : P s) : P t := by
  induction n generalizing s with
  | zero =>
    cases h
    exact hs
  | succ n ih =>
    obtain ⟨u, hu, hrun⟩ := run_succ_eq_next.mp h
    exact ih hrun (hstep s u hu hs)

/-- Settles O57: having the configuration of the start is kept by every step, so by every run. -/
theorem configurationConstant : Obligations.ConfigurationConstant := by
  intro s t n h
  exact run_keeps (M := Sys2Proof.core) (P := fun u : State => u.cfg = s.cfg)
    (fun _ _ hstep hs => (step_cfg hstep).trans hs) n h rfl

end Sys2Proof.Machine
end

section
/-! PROOF. The invariant (rule R36): it holds at power-on, every move of an agent keeps it, and from it no step faults.
The clauses of a phase are read with `Inv.phaseOk_at` and `Inv.commandOk_at`. Updates that no phase clause reads keep
the invariant by themselves, and each phase's operation is such an update followed by a change of phase. -/

namespace Sys2Proof.Machine

/-! ### What a passing configuration gives (rule R205) -/

/-- K5: the nominal request is within a positive range. -/
theorem configOk_requestRange {c : Config} (h : ConfigOk c) :
    1 ≤ c.ninMin ∧ c.ninMin ≤ c.nNom ∧ c.nNom ≤ c.ninMax ∧ c.ninMax ≤ 65535 :=
  (configOk_iff c).mp h 5 (by decide) (by decide)

theorem configOk_nominal {c : Config} (h : ConfigOk c) : c.ninMin ≤ c.nNom ∧ c.nNom ≤ c.ninMax := by
  obtain ⟨-, hmin, hmax, -⟩ := configOk_requestRange h
  exact ⟨hmin, hmax⟩

/-- K6: a PUSH fits after any ended cadence loop. -/
theorem configOk_pushFits {c : Config} (h : ConfigOk c) : (c.inCap : Int) ≥ c.ninMax + c.nPush - 1 :=
  (configOk_iff c).mp h 6 (by decide) (by decide)

/-- K2: InternalFault check 3 passes (rules R151 and R262). -/
theorem configOk_packFits {c : Config} (h : ConfigOk c) : packFits c = true := by
  have hk : 8 * c.nbytes = 2 * c.b := (configOk_iff c).mp h 2 (by decide) (by decide)
  simp [packFits, hk]

/-! ### Reading the invariant in a known phase -/

theorem Inv.phaseOk_at {s : State} {p : Phase} (h : Inv s) (hp : s.phase = p) : PhaseOk { s with phase := p } := by
  subst hp
  exact h.phaseOk

theorem Inv.commandOk_at {s : State} {p : Phase} (h : Inv s) (hp : s.phase = p) :
    CommandOk { s with phase := p } := by
  subst hp
  exact h.commandOk

theorem Inv.published_at {s : State} {p : Phase} (h : Inv s) (hp : s.phase = p) (hq : publishing p = false) :
    s.snap.fsmPub = s.fsm :=
  h.published (by rw [hp, hq])

/-- Outside IDLE the command in progress stands at the port (rule R200). -/
theorem Inv.cmdIn_ne_nil {s : State} {p : Phase} (h : Inv s) (hp : s.phase = p) (hne : p ≠ .idle) :
    s.cmdIn ≠ [] := by
  have hc := h.commandOk_at hp
  intro hnil
  cases p <;> simp_all [CommandOk]

/-- An accepted PUSH fits: a READY session whose loop has ended holds fewer than `NIN_MAX` samples (rule R181). -/
theorem Inv.push_fits {s : State} (h : Inv s) (hr : s.sess = .ready) (hl : LoopEnded s) :
    s.inBuf.occ + s.cfg.nPush ≤ s.cfg.inCap := by
  have hcfg := h.readyConfig hr
  have hmax := (h.requestRange hcfg).2
  have hroom := configOk_pushFits hcfg
  simp only [LoopEnded] at hl
  omega

/-! ### Updates that no clause of the phase reads -/

/-- The clauses about an outstanding request only ever ask that there is none. -/
theorem phaseOk_release {s : State} (h : PhaseOk s) : PhaseOk { s with awaiting := false } := by
  unfold PhaseOk at *
  cases hp : s.phase <;> simp_all [ConfigOk]

theorem inv_takeDemod {s : State} (h : Inv s) (rest : List Reply) : Inv (takeDemod rest s) :=
  { h with phaseOk := phaseOk_release h.phaseOk }

theorem inv_takeDec {s : State} (h : Inv s) (rest : List Reply) : Inv (takeDec rest s) :=
  { h with phaseOk := phaseOk_release h.phaseOk }

theorem inv_answerStatus {s : State} (h : Inv s) (ws : List Word) : Inv (answerStatus ws s) := { h with }

theorem inv_schedule {s : State} (h : Inv s) (sched : List Agent) : Inv { s with schedule := sched } := { h with }

theorem inv_setEvent {s : State} (h : Inv s) (e : Event) : Inv (setEvent e s) := { h with }

theorem inv_outBuf {s : State} (h : Inv s) {b : Ring} (hb : ringWf s.cfg.outCap b = true) :
    Inv { s with outBuf := b } :=
  { h with outWf := hb }

theorem inv_pend {s : State} (h : Inv s) {bits : List Bool} (hb : bits.length = s.cfg.frameBits) :
    Inv { s with pend := bits } :=
  { h with pendLength := hb }

/-! ### Going on to another phase -/

/-- A step that only moves the sequencer on owes the clauses of the new phase. -/
theorem inv_phase {s : State} {p q : Phase} (h : Inv s) (hp : s.phase = p) (hpub : publishing p = false)
    (hk : PhaseOk { s with phase := q }) (hc : CommandOk { s with phase := q }) : Inv { s with phase := q } :=
  { h with published := fun _ => h.published_at hp hpub, phaseOk := hk, commandOk := hc }

/-! ### Settling a response and delivering it -/

/-- A response that settles a command: a session that is READY, or becomes so, has a passing configuration and an ended
loop, and the code is neither of the two that a run never gives. -/
theorem inv_respond {s : State} (h : Inv s) (hcmd : s.cmdIn ≠ []) (hpub : s.snap.fsmPub = s.fsm)
    (ha : s.awaiting = false) (v : Sess) (hv : v = .ready → ConfigOk s.cfg ∧ LoopEnded s) {code : Code}
    (hcode : codeValue code ≠ codeValue .backpressure ∧ codeValue code ≠ codeValue .internalFault)
    {flags a b : BitVec 8} {xs : List Sample} : Inv (respond code flags a b xs { s with sess := v }) :=
  { h with
    readyConfig := fun hr => (hv hr).1
    published := fun _ => hpub
    phaseOk := ⟨ha, fun hr => (hv hr).2, by simpa only [opField_responseWord] using hcode⟩
    commandOk := hcmd }

/-- An illegal command is answered in IDLE and leaves the session as it is (rule R220). -/
theorem inv_respondIllegal {s : State} (h : Inv s) (hp : s.phase = .idle) (hc : s.cmdIn ≠ []) :
    Inv (respond .illegalCommand 0#8 0#8 0#8 [] s) := by
  obtain ⟨ha, hl⟩ : s.awaiting = false ∧ (s.sess = .ready → LoopEnded s) := h.phaseOk_at hp
  exact inv_respond h hc (h.published_at hp rfl) ha s.sess (fun hr => ⟨h.readyConfig hr, hl hr⟩) (by decide)

theorem inv_deliver {s : State} {rsp : Response} (h : Inv s) (hp : s.phase = .respond rsp) : Inv (deliver rsp s) := by
  obtain ⟨ha, hl, -, -⟩ : s.awaiting = false ∧ (s.sess = .ready → LoopEnded s) ∧ _ := h.phaseOk_at hp
  exact
    { h with
      published := fun _ => h.published_at hp rfl
      phaseOk := ⟨ha, hl⟩
      commandOk := trivial }

/-! ### CREATE (rules R202 to R208) -/

theorem inv_acceptCreate {s : State} (h : Inv s) (hp : s.phase = .idle) (hc : CreateAt s) :
    Inv { s with phase := .cReset } := by
  obtain ⟨ha, -⟩ : s.awaiting = false ∧ _ := h.phaseOk_at hp
  exact inv_phase h hp rfl ha hc

theorem inv_resetState {s : State} (h : Inv s) (hp : s.phase = .cReset) :
    Inv { resetState s with phase := .cCheck } := by
  have hcmd := h.commandOk_at hp
  have ha : s.awaiting = false := h.phaseOk_at hp
  exact
    { h with
      inWf := ringClear_wf h.inWf
      outWf := ringClear_wf h.outWf
      pendLength := List.length_replicate
      symLength := List.length_replicate
      requestRange := configOk_nominal
      published := fun _ => rfl
      phaseOk := ⟨ha, rfl, rfl⟩
      commandOk := hcmd }

theorem inv_createCheck {s : State} (h : Inv s) (hp : s.phase = .cCheck) : Inv (createCheck s) := by
  have hcmd := h.commandOk_at hp
  obtain ⟨ha, hocc, hr⟩ : s.awaiting = false ∧ s.inBuf.occ = 0 ∧ s.r = s.cfg.nNom := h.phaseOk_at hp
  obtain ⟨hcfg, e⟩ | ⟨k, -, e⟩ := createCheck_cases s <;> rw [e]
  · have hl : LoopEnded s := by
      have hnom := configOk_requestRange hcfg
      simp only [LoopEnded]
      omega
    exact inv_phase h hp rfl ⟨hcfg, hl⟩ hcmd
  · exact inv_respond h (h.cmdIn_ne_nil hp (by decide)) (h.published_at hp rfl) ha .failed nofun (by decide)

theorem inv_initFail {s : State} {p : Phase} (h : Inv s) (hp : s.phase = p) (hne : p ≠ .idle)
    (hq : publishing p = false) (ha : s.awaiting = false) (k : BitVec 8) : Inv (initFail k s) :=
  inv_respond h (h.cmdIn_ne_nil hp hne) (h.published_at hp hq) ha .failed nofun (by decide)

theorem inv_demodInitAnswer {s : State} (h : Inv s) (hp : s.phase = .cDemodInit) (ha : s.awaiting = false)
    (ok : Bool) : Inv (demodInitAnswer ok s) := by
  have hk : ConfigOk s.cfg ∧ LoopEnded s := h.phaseOk_at hp
  have hcmd := h.commandOk_at hp
  cases ok with
  | false => exact inv_initFail h hp (by decide) rfl ha 1#8
  | true => exact inv_phase (q := .cDecInit) h hp rfl hk hcmd

theorem inv_decInitAnswer {s : State} (h : Inv s) (hp : s.phase = .cDecInit) (ha : s.awaiting = false) (ok : Bool) :
    Inv (decInitAnswer ok s) := by
  have hk : ConfigOk s.cfg ∧ LoopEnded s := h.phaseOk_at hp
  cases ok with
  | false => exact inv_initFail h hp (by decide) rfl ha 2#8
  | true =>
    exact inv_respond h (h.cmdIn_ne_nil hp (by decide)) (h.published_at hp rfl) ha .ready (fun _ => hk) (by decide)

/-! ### PUSH up to the state machine step (rules R210 to R213 and R171 to R177) -/

theorem inv_acceptPush {s : State} {p : List Sample} (h : Inv s) (hp : s.phase = .idle) (hc : PushAt p s) :
    Inv { s with phase := .pAccept } := by
  have hk : s.awaiting = false ∧ (s.sess = .ready → LoopEnded s) := h.phaseOk_at hp
  obtain ⟨m, rest, hcmd, hm⟩ := hc
  exact inv_phase h hp rfl hk ⟨m, rest, p, hcmd, hm⟩

theorem inv_pushAccept {s : State} (h : Inv s) (hp : s.phase = .pAccept) : Inv (pushAccept s) := by
  have hcmd := h.commandOk_at hp
  obtain ⟨ha, hl⟩ : s.awaiting = false ∧ (s.sess = .ready → LoopEnded s) := h.phaseOk_at hp
  obtain ⟨hr, e⟩ | ⟨hr, hfull, -⟩ | ⟨hr, -, e⟩ := pushAccept_cases s
  · rw [e]
    exact inv_respond h (h.cmdIn_ne_nil hp (by decide)) (h.published_at hp rfl) ha s.sess (fun hr' => absurd hr' hr)
      (by decide)
  · have := h.push_fits hr (hl hr)
    omega
  · rw [e]
    exact
      { h with
        published := fun _ => h.published_at hp rfl
        phaseOk := ⟨ha, hr, hl hr⟩
        commandOk := hcmd }

theorem inv_pushAppend {s : State} (h : Inv s) (hp : s.phase = .pAppend) (p : List Sample) :
    Inv (pushAppend p s) := by
  have hcmd := h.commandOk_at hp
  obtain ⟨ha, hr, -⟩ : s.awaiting = false ∧ s.sess = .ready ∧ LoopEnded s := h.phaseOk_at hp
  have hin := ringAppend_wf p h.inWf
  have hocc : occupancyOk { s with inBuf := (ringAppend s.cfg.inCap s.inBuf p).2 } = true :=
    occupancyOk_of_wf hin h.outWf
  rw [pushAppend, afterBufferOp_ok _ hocc]
  exact
    { h with
      inWf := hin
      published := fun _ => h.published_at hp rfl
      phaseOk := ⟨ha, hr⟩
      commandOk := hcmd }

theorem inv_pushLoopTest {s : State} (h : Inv s) (hp : s.phase = .pLoopTest) : Inv (pushLoopTest s) := by
  have hcmd := h.commandOk_at hp
  obtain ⟨ha, hr⟩ : s.awaiting = false ∧ s.sess = .ready := h.phaseOk_at hp
  obtain ⟨hle, e⟩ | ⟨hlt, e⟩ := pushLoopTest_cases s <;> rw [e]
  · exact inv_phase h hp rfl ⟨hr, hle⟩ hcmd
  · exact inv_phase h hp rfl ⟨ha, hr, hlt⟩ hcmd

theorem inv_demodReqAnswer {s : State} (h : Inv s) (hp : s.phase = .pDemodWait) (ha : s.awaiting = false)
    {d : DemodRsp} (hd : rspWf s.cfg d = true) : Inv (demodReqAnswer d s) := by
  have hcmd := h.commandOk_at hp
  obtain ⟨hr, hle⟩ : s.sess = .ready ∧ s.r ≤ s.inBuf.occ := h.phaseOk_at hp
  exact
    { h with
      published := fun _ => h.published_at hp rfl
      phaseOk := ⟨ha, hr, hle, hd⟩
      commandOk := hcmd }

/-- A valid response's `next_r` is a request in range (rule R175). -/
theorem responseValid_range {c : Config} {d : DemodRsp} (h : responseValid c d = true) :
    c.ninMin ≤ d.nextR.toNat ∧ d.nextR.toNat ≤ c.ninMax := by
  simp only [responseValid, Bool.and_eq_true, decide_eq_true_eq] at h
  obtain ⟨⟨-, hmin⟩, hmax⟩ := h
  exact ⟨hmin, hmax⟩

theorem inv_pushConsume {s : State} {d : DemodRsp} (h : Inv s) (hp : s.phase = .pConsume d) :
    Inv (pushConsume d s) := by
  have hcmd := h.commandOk_at hp
  obtain ⟨ha, hr, hle, hd⟩ : s.awaiting = false ∧ s.sess = .ready ∧ s.r ≤ s.inBuf.occ ∧ rspWf s.cfg d = true :=
    h.phaseOk_at hp
  have hin := ringSkip_wf hle h.inWf
  have hocc : occupancyOk { s with inBuf := ringSkip s.cfg.inCap s.inBuf s.r } = true :=
    occupancyOk_of_wf hin h.outWf
  obtain ⟨hlt, -⟩ | ⟨-, ⟨hover, -⟩ | ⟨hvalid, e⟩ | ⟨-, e⟩⟩ := pushConsume_cases d s
  · omega
  · rw [hocc] at hover
    cases hover
  · rw [e]
    exact
      { h with
        inWf := hin
        requestRange := fun _ => responseValid_range hvalid
        published := fun _ => h.published_at hp rfl
        phaseOk := ⟨ha, hr, hd⟩
        commandOk := hcmd }
  · rw [e]
    exact
      { h with
        inWf := hin
        published := fun _ => h.published_at hp rfl
        phaseOk := ⟨ha, hr⟩
        commandOk := hcmd }

/-! ### The state machine step and COMPLETE_FRAME (rules R131 to R149) -/

/-- The iteration with response `d` is at its state machine step, or at the decoder answer that ends it, and no request
is outstanding: from here it goes on to its publication. -/
def InFrame (d : DemodRsp) (s : State) : Prop :=
  (s.phase = .pFsm d ∨ s.phase = .pDecodeWait d) ∧ s.awaiting = false

/-- `fsm` and the phase change together, and `SNAP` follows at the publication (rule R30). -/
theorem inv_fsmTo {s : State} {d : DemodRsp} (h : Inv s) (hs : InFrame d s) (f : Fsm) : Inv (fsmTo f d s) := by
  obtain ⟨hp | hp, ha⟩ := hs <;> have hcmd := h.commandOk_at hp
  · obtain ⟨-, hr, hd⟩ : s.awaiting = false ∧ s.sess = .ready ∧ rspWf s.cfg d = true := h.phaseOk_at hp
    exact { h with published := by rintro ⟨⟩, phaseOk := ⟨ha, hr, hd⟩, commandOk := hcmd }
  · obtain ⟨hr, hd, -⟩ : s.sess = .ready ∧ rspWf s.cfg d = true ∧ s.fsm = .waitSecondHalf := h.phaseOk_at hp
    exact { h with published := by rintro ⟨⟩, phaseOk := ⟨ha, hr, hd⟩, commandOk := hcmd }

theorem rspWf_iff {c : Config} {d : DemodRsp} :
    rspWf c d = true ↔ d.sym.length = c.nSym ∧ d.bits.length = c.b := by
  simp [rspWf]

theorem captureFirst_length {c : Config} {bits pend : List Bool} (hb : bits.length = c.b)
    (hp : pend.length = c.frameBits) : (captureFirst c bits pend).length = c.frameBits := by
  simp only [captureFirst, List.length_append, List.length_drop, Config.frameBits] at *
  omega

theorem captureSecond_length {c : Config} {bits pend : List Bool} (hb : bits.length = c.b)
    (hp : pend.length = c.frameBits) : (captureSecond c bits pend).length = c.frameBits := by
  simp only [captureSecond, List.length_append, List.length_take, Config.frameBits] at *
  omega

theorem inv_stepUnsynced {s : State} {d : DemodRsp} (h : Inv s) (hs : InFrame d s) : Inv (stepUnsynced d s) := by
  obtain ⟨-, e⟩ | ⟨-, e⟩ := stepUnsynced_cases d h.inWf h.outWf <;> rw [e]
  · exact inv_fsmTo (inv_outBuf h (ringAppend_wf _ h.outWf)) hs _
  · exact inv_fsmTo (inv_setEvent h .silDrop) hs _

theorem inv_stepWaitFirst {s : State} {d : DemodRsp} (h : Inv s) (hs : InFrame d s) (hd : rspWf s.cfg d = true) :
    Inv (stepWaitFirst d s) := by
  obtain ⟨-, e⟩ | ⟨-, -, e⟩ | ⟨-, -, e⟩ := stepWaitFirst_cases d s <;> rw [e]
  · exact inv_fsmTo h hs _
  · exact inv_fsmTo (inv_pend h (captureFirst_length (rspWf_iff.mp hd).2 h.pendLength)) hs _
  · exact inv_fsmTo h hs _

theorem inv_stepWaitSecond {s : State} {d : DemodRsp} (h : Inv s) (hp : s.phase = .pFsm d)
    (hf : s.fsm = .waitSecondHalf) : Inv (stepWaitSecond d s) := by
  have hcmd := h.commandOk_at hp
  obtain ⟨ha, hr, hd⟩ : s.awaiting = false ∧ s.sess = .ready ∧ rspWf s.cfg d = true := h.phaseOk_at hp
  have hs : InFrame d s := ⟨.inl hp, ha⟩
  obtain ⟨-, e⟩ | ⟨-, -, e⟩ | ⟨-, -, e⟩ := stepWaitSecond_cases d s <;> rw [e]
  · exact inv_fsmTo h hs _
  · exact inv_fsmTo h hs _
  · exact
      { h with
        pendLength := captureSecond_length (rspWf_iff.mp hd).2 h.pendLength
        published := fun _ => h.published_at hp rfl
        phaseOk := ⟨hr, hd, hf⟩
        commandOk := hcmd }

theorem inv_fsmStep {s : State} {d : DemodRsp} (h : Inv s) (hp : s.phase = .pFsm d) : Inv (fsmStep d s) := by
  obtain ⟨ha, -, hd⟩ : s.awaiting = false ∧ s.sess = .ready ∧ rspWf s.cfg d = true := h.phaseOk_at hp
  have hs : InFrame d s := ⟨.inl hp, ha⟩
  unfold fsmStep
  split
  · exact inv_stepUnsynced h hs
  · exact inv_stepWaitFirst h hs hd
  · exact inv_stepWaitSecond h hp ‹_›

theorem inv_repaired {s : State} {d : DemodRsp} (h : Inv s) (hp : s.phase = .pRepairWait d) {bits : List Bool}
    (hb : bits.length = s.cfg.frameBits) : Inv { s with pend := bits, phase := .pDecodeWait d } :=
  { h with
    pendLength := hb
    published := fun _ => h.published_at hp rfl
    phaseOk := h.phaseOk_at hp
    commandOk := h.commandOk_at hp }

theorem inv_finishFrame {s : State} {d : DemodRsp} (h : Inv s) (hs : InFrame d s) (audio : Option (List Sample)) :
    Inv (finishFrame audio d s) := by
  obtain ⟨-, e⟩ | ⟨v, -, -, e⟩ | ⟨v, -, -, e⟩ := finishFrame_cases audio d h.inWf h.outWf <;> rw [e]
  · exact inv_fsmTo (inv_setEvent h .decodeFail) hs _
  · exact inv_fsmTo (inv_outBuf h (ringAppend_wf v h.outWf)) hs _
  · exact inv_fsmTo (inv_setEvent h .frameDrop) hs _

/-! ### Publication and drain (rules R185, R215 and R216) -/

theorem inv_pushPublish {s : State} {d : DemodRsp} (h : Inv s) (hp : s.phase = .pPublish d) :
    Inv (pushPublish d s) := by
  have hcmd := h.commandOk_at hp
  obtain ⟨ha, hr, hd⟩ : s.awaiting = false ∧ s.sess = .ready ∧ rspWf s.cfg d = true := h.phaseOk_at hp
  obtain ⟨hsym, -⟩ := rspWf_iff.mp hd
  exact { h with symLength := hsym, published := fun _ => rfl, phaseOk := ⟨ha, hr⟩, commandOk := hcmd }

theorem inv_pushDrain {s : State} (h : Inv s) (hp : s.phase = .pDrain) : Inv (pushDrain s) := by
  obtain ⟨ha, hr, hl⟩ : s.awaiting = false ∧ s.sess = .ready ∧ LoopEnded s := h.phaseOk_at hp
  have hv : s.sess = .ready → ConfigOk s.cfg ∧ LoopEnded s := fun hr => ⟨h.readyConfig hr, hl⟩
  obtain ⟨-, e⟩ | ⟨hn, e⟩ := pushDrain_cases h.inWf h.outWf <;> rw [e]
  · exact inv_respond h (h.cmdIn_ne_nil hp (by decide)) (h.published_at hp rfl) ha s.sess hv (by decide)
  · have hout := inv_outBuf h (ringSkip_wf hn h.outWf)
    exact inv_respond hout (h.cmdIn_ne_nil hp (by decide)) (h.published_at hp rfl) ha s.sess hv (by decide)

/-! ### Adapter requests: issue -/

/-- The phases that make an adapter request say nothing about one being outstanding. -/
theorem inv_issue {s : State} (h : Inv s) (hs : (adapterInstr s).isSome) (i : Instr) : Inv (issue i s) :=
  { h with
    phaseOk := by
      have hk := h.phaseOk
      unfold PhaseOk at *
      cases hp : s.phase <;> simp_all [adapterInstr, issue, ConfigOk] }

/-- In COMPLETE_FRAME the session is READY, so `pack` has whole bytes and DEC_DECODE goes out (rules R147 and R262). -/
theorem inv_decDecodeIssue {s : State} {d : DemodRsp} (h : Inv s) (hp : s.phase = .pDecodeWait d)
    (bytes : List Byte) : Inv (decDecodeIssue bytes s) := by
  obtain ⟨hr, -, -⟩ : s.sess = .ready ∧ rspWf s.cfg d = true ∧ s.fsm = .waitSecondHalf := h.phaseOk_at hp
  have hcount : Inv { s with decCnt := satInc s.decCnt } := { h with }
  have hreq : (adapterInstr { s with decCnt := satInc s.decCnt }).isSome := by simp [adapterInstr, hp]
  rw [decDecodeIssue, if_pos (configOk_packFits (h.readyConfig hr))]
  exact inv_issue hcount hreq _

/-! ### Every move, every step, every run -/

/-- Every move of either agent keeps the invariant: one lemma above for each. -/
theorem Moves.inv {s t : State} (hm : Moves s t) (h : Inv s) : Inv t := by
  cases hm with
  | wait => exact h
  | status ws => exact inv_answerStatus h ws
  | acceptCreate hp hc => exact inv_acceptCreate h hp hc
  | acceptPush p hp hc => exact inv_acceptPush h hp hc
  | illegal hp hc => exact inv_respondIllegal h hp hc
  | deliver rsp hp => exact inv_deliver h hp
  | reset hp _ => exact inv_resetState h hp
  | check hp _ => exact inv_createCheck h hp
  | accept p hp _ => exact inv_pushAccept h hp
  | append p hp _ => exact inv_pushAppend h hp p
  | loopTest p hp _ => exact inv_pushLoopTest h hp
  | consume p d hp _ => exact inv_pushConsume h hp
  | fsm p d hp _ => exact inv_fsmStep h hp
  | publish p d hp _ => exact inv_pushPublish h hp
  | drain p hp _ => exact inv_pushDrain h hp
  | issueDemodInit hp _ => exact inv_issue h (by simp [adapterInstr, hp]) _
  | issueDecInit hp _ => exact inv_issue h (by simp [adapterInstr, hp]) _
  | issueDemodReq hp _ => exact inv_issue h (by simp [adapterInstr, hp]) _
  | issueDecRepair d hp _ => exact inv_issue h (by simp [adapterInstr, hp]) _
  | issueDecDecode d hp _ => exact inv_decDecodeIssue h hp _
  | demodInit y rest ok hp _ _ _ => exact inv_demodInitAnswer (inv_takeDemod h rest) hp rfl ok
  | decInit y rest ok hp _ _ _ => exact inv_decInitAnswer (inv_takeDec h rest) hp rfl ok
  | demodReq y rest d hp _ _ hd => exact inv_demodReqAnswer (inv_takeDemod h rest) hp rfl (parseDemod_wf hd)
  | decRepair y rest bits d hp _ _ hb => exact inv_repaired (inv_takeDec h rest) hp (parseRepair_length hb)
  | decDecode y rest audio d hp _ _ _ => exact inv_finishFrame (inv_takeDec h rest) ⟨.inr hp, rfl⟩ audio

/-- Settles O45: the schedule entry is no part of the invariant, and the move after it keeps it. -/
theorem stepKeepsInvariant : Obligations.StepKeepsInvariant := by
  intro s t h hstep
  obtain ⟨u, rfl | ⟨sched, rfl⟩, hm⟩ := step_moves hstep
  · exact hm.inv h
  · exact hm.inv (inv_schedule h sched)

/-- Power-on leaves empty buffers, no session and nothing at the ports (rule R290). -/
theorem resetWith_inv (c : Config) : Inv (State.resetWith c) where
  inWf := resetWith_inBuf_wf c
  outWf := resetWith_outBuf_wf c
  pendLength := List.length_replicate
  symLength := List.length_replicate
  readyConfig := nofun
  requestRange := configOk_nominal
  published := fun _ => rfl
  phaseOk := ⟨rfl, nofun⟩
  commandOk := trivial

/-- Settles O44: the power-on state of REF-SMALL is one of the power-on states. -/
theorem resetMeetsInvariant : Obligations.ResetMeetsInvariant :=
  ⟨resetWith_inv refSmall, resetWith_inv⟩

/-- A run from a state that meets the invariant stays within it. -/
theorem run_inv {s t : State} {n : Nat} (h : Inv s) (hrun : Host.Core.run Sys2Proof.core n s = .next t) : Inv t :=
  run_keeps (M := Sys2Proof.core) (P := Inv) (fun _ _ hstep hs => stepKeepsInvariant _ _ hs hstep) n hrun h

/-- Settles O48: the clauses of the invariant for an IDLE block in a READY session, at the end of a run. -/
theorem idleReadyFacts : Obligations.IdleReadyFacts := by
  rintro c s t n hs rfl hrun
  have ht := run_inv hs hrun
  have hcfg : t.cfg = s.cfg := configurationConstant s t n hrun
  refine ⟨hcfg, fun hp hr => ?_⟩
  obtain ⟨-, hl⟩ : t.awaiting = false ∧ (t.sess = .ready → LoopEnded t) := ht.phaseOk_at hp
  have hlt : t.inBuf.occ < t.r := hl hr
  have hmax := (ht.requestRange (ht.readyConfig hr)).2
  obtain ⟨-, -, hin⟩ := ringWf_iff.mp ht.inWf
  obtain ⟨-, -, hout⟩ := ringWf_iff.mp ht.outWf
  rw [hcfg] at hmax hin hout
  exact ⟨ht.published_at hp rfl, hlt, by omega, hin, hout⟩

/-! ### No step faults (rules R33, R36 and R200) -/

/-- A transaction whose only refusal is a malformed adapter response. -/
def Answers (o : Host.Outcome State Fault Refusal) : Prop :=
  (∃ t, o = .next t) ∨ o = .refused .malformedAdapterResponse

theorem answers_next (t : State) : Answers (.next t) := .inl ⟨t, rfl⟩

theorem execCreate_answers (s : State) : Answers (execCreate s) := by
  unfold execCreate
  split <;> exact answers_next _

theorem execPush_answers (p : List Sample) (s : State) : Answers (execPush p s) := by
  unfold execPush
  split <;> exact answers_next _

/-- An adapter request is issued, waits, takes its response, or refuses one of the wrong length (rules R304 to R306). -/
theorem adapterExec_answers {s : State} {i : Instr} (hi : adapterInstr s = some i) : Answers (exec i s) := by
  unfold adapterInstr at hi
  split at hi <;> cases hi
  all_goals
    simp only [exec, execDemodInit, execDecInit, execDemodReq, execDecRepair, execDecDecode]
    split
    · exact answers_next _
    · split
      · exact answers_next _
      · split
        · exact .inr rfl
        · exact answers_next _

/-- A command that is at the port runs whatever the phase, and where there must be one the port is not empty. -/
theorem commandStep_answers {s : State} (h : Inv s) : Answers (commandStep s) := by
  unfold commandStep
  split
  · rename_i hnil
    by_cases hp : s.phase = .idle
    · simp only [hp]
      exact answers_next s
    · exact absurd hnil (h.cmdIn_ne_nil rfl hp)
  · split
    · obtain rfl | ⟨p, rfl, -⟩ := commandInstr_cases ‹_›
      · exact execCreate_answers s
      · exact execPush_answers p s
    · exact answers_next _

theorem sequencerStep_answers {s : State} (h : Inv s) : Answers (sequencerStep s) := by
  unfold sequencerStep
  split
  · exact adapterExec_answers ‹_›
  · exact commandStep_answers h

theorem readerStep_answers (s : State) : Answers (readerStep s) := by
  unfold readerStep
  split
  · exact answers_next s
  · split
    · obtain ⟨ws, e⟩ := exec_of_statusInstr ‹_› s
      rw [e]
      exact answers_next _
    · exact answers_next _

/-- Settles O46: a reader's move always goes on, and the sequencer's finds its command at the port. -/
theorem invariantExcludesFaults : Obligations.InvariantExcludesFaults := by
  intro s h
  change Answers (step s)
  unfold step
  split
  · exact sequencerStep_answers (inv_schedule h _)
  · exact readerStep_answers _
  · split
    · exact sequencerStep_answers h
    · exact readerStep_answers s

end Sys2Proof.Machine
end

section
/-! PROOF. The two commands at acceptance and delivery (rules R33 and R200), and the only writers of `sess` and `fsm`
(rules R22, R23, R131 and R267). The writers are read off the moves of an agent, so no
invariant is needed. -/

namespace Sys2Proof.Machine

/-! ### Acceptance, waiting and delivery (rules R33, R200 and R305) -/

/-- Settles O16: CREATE's arm in each of the phases named. -/
theorem createAcceptedAndDelivered : Obligations.CreateAcceptedAndDelivered := by
  intro s
  refine ⟨fun hp => ?_, fun hp => ?_, fun rsp hp => ?_⟩
  · simp only [exec, execCreate, hp]
  · obtain hp | hp := hp <;> simp only [exec, execCreate, hp]
  · simp only [exec, execCreate, hp, deliver]

/-- Settles O29: PUSH's arm in each of the phases named. -/
theorem pushAcceptedAndDelivered : Obligations.PushAcceptedAndDelivered := by
  intro p s
  refine ⟨fun hp => ?_, fun hp => ?_, fun rsp hp => ?_⟩
  · simp only [exec, execPush, hp]
  · obtain hp | ⟨d, hp⟩ | ⟨d, hp⟩ := hp <;> simp only [exec, execPush, hp]
  · simp only [exec, execPush, hp, deliver]

/-! ### `fsm`: what the operations outside the state machine step leave (rule R23) -/

@[simp] theorem createCheck_fsm (s : State) : (createCheck s).fsm = s.fsm := by
  obtain ⟨_, e⟩ | ⟨k, _, e⟩ := createCheck_cases s <;> rw [e]
  rfl

@[simp] theorem pushAccept_fsm (s : State) : (pushAccept s).fsm = s.fsm := by
  obtain ⟨_, e⟩ | ⟨_, _, e⟩ | ⟨_, _, e⟩ := pushAccept_cases s <;> rw [e]
  · rfl
  · rfl

@[simp] theorem pushAppend_fsm (p : List Sample) (s : State) : (pushAppend p s).fsm = s.fsm := by
  unfold pushAppend afterBufferOp
  split <;> rfl

@[simp] theorem pushLoopTest_fsm (s : State) : (pushLoopTest s).fsm = s.fsm := by
  obtain ⟨_, e⟩ | ⟨_, e⟩ := pushLoopTest_cases s <;> rw [e]

@[simp] theorem pushConsume_fsm (d : DemodRsp) (s : State) : (pushConsume d s).fsm = s.fsm := by
  obtain ⟨_, e⟩ | ⟨_, ⟨_, e⟩ | ⟨_, e⟩ | ⟨_, e⟩⟩ := pushConsume_cases d s <;> rw [e]
  · rfl
  · rfl
  · rfl

@[simp] theorem pushPublish_fsm (d : DemodRsp) (s : State) : (pushPublish d s).fsm = s.fsm := rfl

@[simp] theorem pushDrain_fsm (s : State) : (pushDrain s).fsm = s.fsm := by
  unfold pushDrain
  split
  · dsimp only
    split <;> rfl
  · split <;> rfl

@[simp] theorem demodInitAnswer_fsm (ok : Bool) (s : State) : (demodInitAnswer ok s).fsm = s.fsm := by
  cases ok <;> rfl

@[simp] theorem decInitAnswer_fsm (ok : Bool) (s : State) : (decInitAnswer ok s).fsm = s.fsm := by
  cases ok <;> rfl

@[simp] theorem demodReqAnswer_fsm (d : DemodRsp) (s : State) : (demodReqAnswer d s).fsm = s.fsm := rfl

/-- A move that changes `fsm` is CREATE's reset, a state machine step, or in the phase of the decoder's answer. -/
theorem Moves.fsm_writer {s t : State} (hm : Moves s t) (hne : t.fsm ≠ s.fsm) :
    s.phase = .cReset ∨ (∃ d, s.phase = .pFsm d) ∨ (∃ d, s.phase = .pDecodeWait d) := by
  cases hm with
  | reset hp _ => exact .inl hp
  | fsm p d hp _ => exact .inr (.inl ⟨d, hp⟩)
  | issueDecDecode d hp _ => exact .inr (.inr ⟨d, hp⟩)
  | decDecode y rest audio d hp _ _ _ => exact .inr (.inr ⟨d, hp⟩)
  | _ => simp at hne

/-- Settles O51: taking an entry off the schedule changes neither `fsm` nor the phase. -/
theorem fsmWriters : Obligations.FsmWriters := by
  intro s t hstep hne
  obtain ⟨u, rfl | ⟨sched, rfl⟩, hm⟩ := step_moves hstep
  · exact hm.fsm_writer hne
  · exact hm.fsm_writer hne

/-! ### `sess`: kept, or FAILED with a fatal response (rules R22 and R267) -/

/-- The session is FAILED and the response about to leave says why: CONFIG_FAULT, INIT_FAIL or INTERNAL_FAULT. -/
def FatalEnd (t : State) : Prop :=
  t.sess = .failed ∧ ∃ rsp, t.phase = .respond rsp ∧
    (opField rsp.word = 0x04#8 ∨ opField rsp.word = 0x05#8 ∨ opField rsp.word = 0x08#8)

theorem fatalEnd_configFault (s : State) (k : BitVec 8) :
    FatalEnd (respond .configFault 0#8 0#8 k [] { s with sess := .failed }) :=
  ⟨rfl, _, rfl, .inl (opField_responseWord _ _ _ _)⟩

theorem fatalEnd_initFail (s : State) (k : BitVec 8) : FatalEnd (initFail k s) :=
  ⟨rfl, _, rfl, .inr (.inl (opField_responseWord _ _ _ _))⟩

theorem fatalEnd_internalFault (s : State) (k : BitVec 8) : FatalEnd (internalFault k s) :=
  ⟨rfl, _, rfl, .inr (.inr (opField_responseWord _ _ _ _))⟩

/-- Most operations leave the session, or end it with a fatal response. -/
def SessKept (s t : State) : Prop := t.sess = s.sess ∨ FatalEnd t

theorem createCheck_sessKept (s : State) : SessKept s (createCheck s) := by
  obtain ⟨_, e⟩ | ⟨k, _, e⟩ := createCheck_cases s <;> rw [e]
  · exact .inl rfl
  · exact .inr (fatalEnd_configFault s _)

theorem pushAccept_sessKept (s : State) : SessKept s (pushAccept s) := by
  obtain ⟨_, e⟩ | ⟨_, _, e⟩ | ⟨_, _, e⟩ := pushAccept_cases s <;> rw [e] <;> exact .inl rfl

theorem pushAppend_sessKept (p : List Sample) (s : State) : SessKept s (pushAppend p s) := by
  unfold pushAppend afterBufferOp
  split
  · exact .inl rfl
  · exact .inr (fatalEnd_internalFault _ _)

theorem pushLoopTest_sessKept (s : State) : SessKept s (pushLoopTest s) := by
  obtain ⟨_, e⟩ | ⟨_, e⟩ := pushLoopTest_cases s <;> rw [e] <;> exact .inl rfl

theorem pushConsume_sessKept (d : DemodRsp) (s : State) : SessKept s (pushConsume d s) := by
  obtain ⟨_, e⟩ | ⟨_, ⟨_, e⟩ | ⟨_, e⟩ | ⟨_, e⟩⟩ := pushConsume_cases d s <;> rw [e]
  · exact .inr (fatalEnd_internalFault _ _)
  · exact .inr (fatalEnd_internalFault _ _)
  · exact .inl rfl
  · exact .inl rfl

theorem fsmStep_sessKept (d : DemodRsp) (s : State) : SessKept s (fsmStep d s) := by
  unfold fsmStep
  split
  · unfold stepUnsynced
    split
    · dsimp only
      split
      · exact .inl rfl
      · exact .inr (fatalEnd_internalFault _ _)
    · exact .inl rfl
  · obtain ⟨_, e⟩ | ⟨_, _, e⟩ | ⟨_, _, e⟩ := stepWaitFirst_cases d s <;> rw [e] <;> exact .inl rfl
  · obtain ⟨_, e⟩ | ⟨_, _, e⟩ | ⟨_, _, e⟩ := stepWaitSecond_cases d s <;> rw [e] <;> exact .inl rfl

theorem pushDrain_sessKept (s : State) : SessKept s (pushDrain s) := by
  unfold pushDrain
  split
  · dsimp only
    split
    · exact .inl rfl
    · exact .inr (fatalEnd_internalFault _ _)
  · split
    · exact .inl rfl
    · exact .inr (fatalEnd_internalFault _ _)

theorem demodInitAnswer_sessKept (ok : Bool) (s : State) : SessKept s (demodInitAnswer ok s) := by
  cases ok with
  | false => exact .inr (fatalEnd_initFail s 1#8)
  | true => exact .inl rfl

theorem decDecodeIssue_sessKept (bytes : List Byte) (s : State) : SessKept s (decDecodeIssue bytes s) := by
  unfold decDecodeIssue
  split
  · exact .inl rfl
  · exact .inr (fatalEnd_internalFault _ _)

theorem finishFrame_sessKept (audio : Option (List Sample)) (d : DemodRsp) (s : State) :
    SessKept s (finishFrame audio d s) := by
  unfold finishFrame
  split
  · exact .inl rfl
  · split
    · dsimp only
      split
      · exact .inl rfl
      · exact .inr (fatalEnd_internalFault _ _)
    · exact .inl rfl

/-- An initialisation answer is one word, and its bit 0 is `ok` (rule R87). -/
theorem parseInit_eq_some {y : Reply} {ok : Bool} (h : parseInit y = some ok) :
    ∃ w, y = { words := [w] } ∧ w.getLsbD 0 = ok := by
  obtain ⟨words, samples⟩ := y
  unfold parseInit at h
  split at h
  · rename_i w hw hx
    cases hw
    cases hx
    exact ⟨w, rfl, Option.some.inj h⟩
  · cases h

/-- DEC_INIT's successful answer, the only way to READY (rules R207 and R208). -/
def BecomesReady (s t : State) : Prop :=
  t.sess = .ready ∧ s.phase = .cDecInit ∧ s.awaiting = true ∧
    (∃ w : Word, s.decIn = { words := [w] } :: t.decIn ∧ w.getLsbD 0 = true) ∧
    t.phase = .respond { word := 0x00000000#32, payload := [] }

/-- A move keeps the session, ends it with a fatal response, or makes it READY. -/
theorem Moves.sess_cases {s t : State} (hm : Moves s t) : SessKept s t ∨ BecomesReady s t := by
  cases hm with
  | check _ _ => exact .inl (createCheck_sessKept s)
  | accept p _ _ => exact .inl (pushAccept_sessKept s)
  | append p _ _ => exact .inl (pushAppend_sessKept p s)
  | loopTest p _ _ => exact .inl (pushLoopTest_sessKept s)
  | consume p d _ _ => exact .inl (pushConsume_sessKept d s)
  | fsm p d _ _ => exact .inl (fsmStep_sessKept d s)
  | drain p _ _ => exact .inl (pushDrain_sessKept s)
  | issueDecDecode d _ _ => exact .inl (decDecodeIssue_sessKept _ s)
  | demodInit y rest ok _ _ _ _ => exact .inl (demodInitAnswer_sessKept ok (takeDemod rest s))
  | decDecode y rest audio d _ _ _ _ => exact .inl (finishFrame_sessKept audio d (takeDec rest s))
  | decInit y rest ok hp ha hy hok =>
    cases ok with
    | false => exact .inl (.inr (fatalEnd_initFail _ 2#8))
    | true =>
      obtain ⟨w, rfl, hw⟩ := parseInit_eq_some hok
      exact .inr ⟨rfl, hp, ha, ⟨w, hy, hw⟩, rfl⟩
  | _ => exact .inl (.inl rfl)

/-- Settles O50: taking an entry off the schedule touches nothing the statement names. -/
theorem sessionStateWriters : Obligations.SessionStateWriters := by
  intro s t hstep hne
  have hcases : SessKept s t ∨ BecomesReady s t := by
    obtain ⟨u, rfl | ⟨sched, rfl⟩, hm⟩ := step_moves hstep
    · exact hm.sess_cases
    · exact hm.sess_cases
  obtain (hkept | hfatal) | hready := hcases
  · exact absurd hkept hne
  · exact .inr hfatal
  · exact .inl hready

end Sys2Proof.Machine
end

section
/-! PROOF. What one step runs, and what it does at the two adapter ports. A step with a known mover is `exec` of the
transaction at that mover's port (rules R60, R200, R201 and R272). Of the moves of an agent, only an issue adds to the
requests sent, only a taken answer releases the block, and every other operation leaves the adapter ports as they are
(rules R63 and R305). -/

namespace Sys2Proof.Machine

/-! ### The transaction a step runs -/

/-- With a reader next in the schedule its entry is taken off and a reader moves (rule R272; log entry 4). -/
theorem step_of_reader {s : State} {sched : List Agent} (h : s.schedule = .reader :: sched) :
    step s = readerStep { s with schedule := sched } := by
  simp only [step, h]

theorem step_of_sequencer {s : State} {sched : List Agent} (h : s.schedule = .sequencer :: sched) :
    step s = sequencerStep { s with schedule := sched } := by
  simp only [step, h]

theorem step_of_statusWaiting {s : State} {w : Word} {rest : List Word} (h : s.schedule = [])
    (hw : s.statusIn = w :: rest) : step s = readerStep s := by
  simp only [step, h, hw]

theorem step_of_quiet {s : State} (h : s.schedule = []) (hw : s.statusIn = []) : step s = sequencerStep s := by
  simp only [step, h, hw]

/-- A reader runs the request its word decodes to (rule R230). -/
theorem readerStep_eq_exec {s : State} {i : Instr} {w : Word} {rest : List Word} (hw : s.statusIn = w :: rest)
    (hi : decode .status s.cfg { header := w } = .ok i) : readerStep s = exec i s := by
  simp only [readerStep, hw, statusInstr, hi]

/-- In a phase that makes an adapter request the sequencer runs it (rule R60). -/
theorem sequencerStep_eq_adapter {s : State} {i : Instr} (hi : adapterInstr s = some i) :
    sequencerStep s = exec i s := by
  simp only [sequencerStep, hi]

/-- In every other phase the sequencer runs the command at its port (rules R200 and R201). -/
theorem sequencerStep_eq_command {s : State} {i : Instr} {m : Packet} {rest : List Packet} (ha : adapterInstr s = none)
    (hm : s.cmdIn = m :: rest) (hi : decode .command s.cfg m = .ok i) : sequencerStep s = exec i s := by
  simp only [sequencerStep, ha, commandStep, hm, commandInstr, hi]

/-- Settles O43: the mover is read off the schedule, and no mover's choice of transaction reads the schedule. -/
theorem stepRunsDecodedTransaction : Obligations.StepRunsDecodedTransaction := by
  intro s i sched
  refine ⟨fun w rest hw hi => ⟨fun hs => ?_, fun hs => ?_⟩, fun hi => ⟨fun hs => ?_, fun hs hw => ?_⟩,
    fun m rest ha hm hi => ⟨fun hs => ?_, fun hs hw => ?_⟩⟩
  · exact (step_of_reader hs).trans (readerStep_eq_exec hw hi)
  · exact (step_of_statusWaiting hs hw).trans (readerStep_eq_exec hw hi)
  · exact (step_of_sequencer hs).trans (sequencerStep_eq_adapter hi)
  · exact (step_of_quiet hs hw).trans (sequencerStep_eq_adapter hi)
  · exact (step_of_sequencer hs).trans (sequencerStep_eq_command ha hm hi)
  · exact (step_of_quiet hs hw).trans (sequencerStep_eq_command ha hm hi)

/-! ### The adapter ports: which operations leave them as they are -/

/-- What stands at the adapter ports: the requests sent, whether one is outstanding, and the answers of the demodulator
and of the decoder not yet taken. -/
def adapterPorts (s : State) : List Packet × Bool × List Reply × List Reply :=
  (s.adapterOut, s.awaiting, s.demodIn, s.decIn)

theorem createCheck_adapterPorts (s : State) : adapterPorts (createCheck s) = adapterPorts s := by
  obtain ⟨_, e⟩ | ⟨k, _, e⟩ := createCheck_cases s <;> rw [e] <;> rfl

theorem pushAccept_adapterPorts (s : State) : adapterPorts (pushAccept s) = adapterPorts s := by
  obtain ⟨_, e⟩ | ⟨_, _, e⟩ | ⟨_, _, e⟩ := pushAccept_cases s <;> rw [e] <;> rfl

theorem pushAppend_adapterPorts (p : List Sample) (s : State) : adapterPorts (pushAppend p s) = adapterPorts s := by
  unfold pushAppend afterBufferOp
  split <;> rfl

theorem pushLoopTest_adapterPorts (s : State) : adapterPorts (pushLoopTest s) = adapterPorts s := by
  obtain ⟨_, e⟩ | ⟨_, e⟩ := pushLoopTest_cases s <;> rw [e] <;> rfl

theorem pushConsume_adapterPorts (d : DemodRsp) (s : State) : adapterPorts (pushConsume d s) = adapterPorts s := by
  obtain ⟨_, e⟩ | ⟨_, ⟨_, e⟩ | ⟨_, e⟩ | ⟨_, e⟩⟩ := pushConsume_cases d s <;> rw [e] <;> rfl

theorem fsmStep_adapterPorts (d : DemodRsp) (s : State) : adapterPorts (fsmStep d s) = adapterPorts s := by
  unfold fsmStep
  split
  · unfold stepUnsynced
    split
    · dsimp only
      split <;> rfl
    · rfl
  · obtain ⟨_, e⟩ | ⟨_, _, e⟩ | ⟨_, _, e⟩ := stepWaitFirst_cases d s <;> rw [e] <;> rfl
  · obtain ⟨_, e⟩ | ⟨_, _, e⟩ | ⟨_, _, e⟩ := stepWaitSecond_cases d s <;> rw [e] <;> rfl

theorem pushDrain_adapterPorts (s : State) : adapterPorts (pushDrain s) = adapterPorts s := by
  unfold pushDrain
  split
  · dsimp only
    split <;> rfl
  · split <;> rfl

theorem demodInitAnswer_adapterPorts (ok : Bool) (s : State) :
    adapterPorts (demodInitAnswer ok s) = adapterPorts s := by
  cases ok <;> rfl

theorem decInitAnswer_adapterPorts (ok : Bool) (s : State) : adapterPorts (decInitAnswer ok s) = adapterPorts s := by
  cases ok <;> rfl

theorem finishFrame_adapterPorts (audio : Option (List Sample)) (d : DemodRsp) (s : State) :
    adapterPorts (finishFrame audio d s) = adapterPorts s := by
  unfold finishFrame
  split
  · rfl
  · split
    · dsimp only
      split <;> rfl
    · rfl

/-! ### The adapter ports: what a move does (rules R63 and R305) -/

/-- What a move from `s` can do at the adapter ports: nothing, issue a request, or take one answer of one adapter. -/
inductive PortEvent (s t : State) : Prop
  | kept : adapterPorts t = adapterPorts s → PortEvent s t
  | issued (i : Instr) : s.awaiting = false → adapterPorts t = adapterPorts (issue i s) → PortEvent s t
  | tookDemod (y : Reply) (rest : List Reply) : s.awaiting = true → s.demodIn = y :: rest →
      adapterPorts t = adapterPorts (takeDemod rest s) → PortEvent s t
  | tookDec (y : Reply) (rest : List Reply) : s.awaiting = true → s.decIn = y :: rest →
      adapterPorts t = adapterPorts (takeDec rest s) → PortEvent s t

/-- The issue of DEC_DECODE goes out, unless InternalFault check 3 stops it (rules R147 and R262). -/
theorem decDecodeIssue_portEvent (bytes : List Byte) {s : State} (ha : s.awaiting = false) :
    PortEvent s (decDecodeIssue bytes s) := by
  unfold decDecodeIssue
  split
  · exact .issued (.decDecode bytes) ha rfl
  · exact .kept rfl

/-- Every move of either agent is one of these events. -/
theorem Moves.portEvent {s t : State} (hm : Moves s t) : PortEvent s t := by
  cases hm with
  | check _ _ => exact .kept (createCheck_adapterPorts s)
  | accept p _ _ => exact .kept (pushAccept_adapterPorts s)
  | append p _ _ => exact .kept (pushAppend_adapterPorts p s)
  | loopTest p _ _ => exact .kept (pushLoopTest_adapterPorts s)
  | consume p d _ _ => exact .kept (pushConsume_adapterPorts d s)
  | fsm p d _ _ => exact .kept (fsmStep_adapterPorts d s)
  | drain p _ _ => exact .kept (pushDrain_adapterPorts s)
  | issueDemodInit _ ha => exact .issued _ ha rfl
  | issueDecInit _ ha => exact .issued _ ha rfl
  | issueDemodReq _ ha => exact .issued _ ha rfl
  | issueDecRepair d _ ha => exact .issued _ ha rfl
  | issueDecDecode d _ ha => exact decDecodeIssue_portEvent _ ha
  | demodInit y rest ok _ ha hy _ => exact .tookDemod y rest ha hy (demodInitAnswer_adapterPorts ok _)
  | decInit y rest ok _ ha hy _ => exact .tookDec y rest ha hy (decInitAnswer_adapterPorts ok _)
  | demodReq y rest d _ ha hy _ => exact .tookDemod y rest ha hy rfl
  | decRepair y rest bits d _ ha hy _ => exact .tookDec y rest ha hy rfl
  | decDecode y rest audio d _ ha hy _ => exact .tookDec y rest ha hy (finishFrame_adapterPorts audio d _)
  | _ => exact .kept rfl

/-- Taking an entry off the schedule is no event at the adapter ports, so a step is one event. -/
theorem step_portEvent {s t : State} (h : step s = .next t) : PortEvent s t := by
  obtain ⟨u, rfl | ⟨sched, rfl⟩, hm⟩ := step_moves h
  · exact hm.portEvent
  · cases hm.portEvent with
    | kept e => exact .kept e
    | issued i ha e => exact .issued i ha e
    | tookDemod y rest ha hy e => exact .tookDemod y rest ha hy e
    | tookDec y rest ha hy e => exact .tookDec y rest ha hy e

theorem adapterPorts_eq_iff {s t : State} : adapterPorts t = adapterPorts s ↔
    t.adapterOut = s.adapterOut ∧ t.awaiting = s.awaiting ∧ t.demodIn = s.demodIn ∧ t.decIn = s.decIn := by
  simp only [adapterPorts, Prod.mk.injEq]

/-- Settles O54: each event at the adapter ports meets the three clauses. -/
theorem oneOutstandingRequest : Obligations.OneOutstandingRequest := by
  intro s t hstep
  cases step_portEvent hstep with
  | kept e =>
    obtain ⟨hout, hwait, hdemod, hdec⟩ := adapterPorts_eq_iff.mp e
    simp [hout, hwait, hdemod, hdec]
  | issued i ha e =>
    obtain ⟨hout, hwait, hdemod, hdec⟩ := adapterPorts_eq_iff.mp e
    refine ⟨.inr ⟨ha, hwait, _, hout⟩, fun h => ?_, fun h => ?_⟩
    · simp [ha] at h
    · simp [hdemod, hdec] at h
  | tookDemod y rest ha hy e =>
    obtain ⟨hout, hwait, hdemod, hdec⟩ := adapterPorts_eq_iff.mp e
    exact ⟨.inl hout, fun _ _ => .inl ⟨y, by simp [hy, hdemod], hdec⟩, fun _ => ⟨ha, hwait⟩⟩
  | tookDec y rest ha hy e =>
    obtain ⟨hout, hwait, hdemod, hdec⟩ := adapterPorts_eq_iff.mp e
    exact ⟨.inl hout, fun _ _ => .inr ⟨y, by simp [hy, hdec], hdemod⟩, fun _ => ⟨ha, hwait⟩⟩

end Sys2Proof.Machine
end

section
/-! PROOF. Decoding undoes encoding. The fields of a header built by the encoder are the ones its decoder reads, and the
bit vectors and byte sequences carried in 32-bit words come back from them (rules R80, R81, R84 and R85). -/

namespace Sys2Proof

/-! ### The fields of the encoder's headers (rules R71, R80 and R85) -/

@[simp] theorem opField_opHeader (op : BitVec 8) : opField (opHeader op) = op := BitVec.extractLsb'_append_eq_left

@[simp] theorem low24_opHeader (op : BitVec 8) : low24 (opHeader op) = 0#24 := BitVec.extractLsb'_append_eq_right

@[simp] theorem opField_readHeader (addr : BitVec 8) : opField (readHeader addr) = 0x00#8 :=
  BitVec.extractLsb'_append_eq_of_le (xhi := 0#24) (xlo := addr) (by decide)

@[simp] theorem statusMbz_readHeader (addr : BitVec 8) : statusMbz (readHeader addr) = 0#16 :=
  BitVec.extractLsb'_append_eq_of_le (xhi := 0#24) (xlo := addr) (by decide)

@[simp] theorem statusAddr_readHeader (addr : BitVec 8) : statusAddr (readHeader addr) = addr :=
  BitVec.extractLsb'_append_eq_right

@[simp] theorem opField_encode_demodReq (r : BitVec 16) (xs : List Sample) :
    opField (encode (.demodReq r xs)).header = 0x11#8 :=
  BitVec.extractLsb'_append_eq_of_le (xhi := 0x11#8 ++ 0#8) (xlo := r) (by decide)

@[simp] theorem demodMbz_encode_demodReq (r : BitVec 16) (xs : List Sample) :
    demodMbz (encode (.demodReq r xs)).header = 0#8 :=
  BitVec.extractLsb'_append_eq_of_le (xhi := 0x11#8 ++ 0#8) (xlo := r) (by decide)

@[simp] theorem demodCount_encode_demodReq (r : BitVec 16) (xs : List Sample) :
    demodCount (encode (.demodReq r xs)).header = r :=
  BitVec.extractLsb'_append_eq_right (a := 0x11#8 ++ 0#8) (b := r)

/-! ### Bit vectors in words (rule R84) -/

theorem natOfBits_testBit (bits : List Bool) (j : Nat) : (natOfBits bits).testBit j = bits.getD j false := by
  induction bits generalizing j with
  | nil => simp [natOfBits]
  | cons b bits ih =>
    cases j with
    | zero => cases b <;> simp [natOfBits, Nat.testBit_zero]
    | succ j =>
      have hhalf : (b.toNat + 2 * natOfBits bits) / 2 = natOfBits bits := by
        have := b.toNat_lt
        omega
      rw [natOfBits, Nat.testBit_succ, hhalf, ih, List.getD_cons_succ]

@[simp] theorem bitsToWords_length (bits : List Bool) : (bitsToWords bits).length = bitWordCount bits.length := by
  simp [bitsToWords]

/-- Bit `j` of the vector is bit `j mod 32` of word `j / 32`. -/
theorem bitsToWords_getLsbD {bits : List Bool} {j : Nat} (hj : j < bits.length) :
    ((bitsToWords bits).getD (j / 32) 0#32).getLsbD (j % 32) = bits[j] := by
  have hword : j / 32 < bitWordCount bits.length := by unfold bitWordCount; omega
  have hbit : j % 32 < 32 := Nat.mod_lt _ (by decide)
  rw [List.getD_eq_getElem _ _ (by simpa using hword)]
  simp only [bitsToWords, List.getElem_map, List.getElem_range, BitVec.getLsbD_ofNat, natOfBits_testBit, hbit,
    decide_true, Bool.true_and]
  simp [hbit, Nat.div_add_mod, hj]

theorem wordsToBits_bitsToWords (bits : List Bool) : wordsToBits bits.length (bitsToWords bits) = bits := by
  refine List.ext_getElem (by simp [wordsToBits]) fun j hj _ => ?_
  have hj' : j < bits.length := by simpa [wordsToBits] using hj
  simpa [wordsToBits] using bitsToWords_getLsbD hj'

/-! ### Bytes in words (rule R85) -/

@[simp] theorem bytesToWords_length (bytes : List Byte) : (bytesToWords bytes).length = byteWordCount bytes.length := by
  simp [bytesToWords]

/-- Above the lowest byte, a byte of `hi ++ lo` is a byte of `hi`. -/
theorem extractByte_append_succ {n : Nat} (hi : BitVec n) (lo : Byte) (k : Nat) :
    (hi ++ lo).extractLsb' (8 * (k + 1)) 8 = hi.extractLsb' (8 * k) 8 := by
  rw [BitVec.extractLsb'_append_eq_of_le (by omega), show 8 * (k + 1) - 8 = 8 * k by omega]

/-- Byte `k` of a word put together from four bytes. -/
theorem wordOfBytes_extractByte (b0 b1 b2 b3 : Byte) {k : Nat} (hk : k < 4) :
    (wordOfBytes b0 b1 b2 b3).extractLsb' (8 * k) 8 = [b0, b1, b2, b3].getD k 0#8 := by
  have hbyte0 : (wordOfBytes b0 b1 b2 b3).extractLsb' (8 * 0) 8 = b0 := BitVec.extractLsb'_append_eq_right
  have hbyte1 : (wordOfBytes b0 b1 b2 b3).extractLsb' (8 * 1) 8 = b1 :=
    (extractByte_append_succ (b3 ++ b2 ++ b1) b0 0).trans BitVec.extractLsb'_append_eq_right
  have hbyte2 : (wordOfBytes b0 b1 b2 b3).extractLsb' (8 * 2) 8 = b2 :=
    (extractByte_append_succ (b3 ++ b2 ++ b1) b0 1).trans
      ((extractByte_append_succ (b3 ++ b2) b1 0).trans BitVec.extractLsb'_append_eq_right)
  have hbyte3 : (wordOfBytes b0 b1 b2 b3).extractLsb' (8 * 3) 8 = b3 :=
    (extractByte_append_succ (b3 ++ b2 ++ b1) b0 2).trans
      ((extractByte_append_succ (b3 ++ b2) b1 1).trans
        ((extractByte_append_succ b3 b2 0).trans BitVec.extractLsb'_eq_self))
  interval_cases k
  · exact hbyte0
  · exact hbyte1
  · exact hbyte2
  · exact hbyte3

/-- Byte `k` of the sequence is byte `k mod 4` of word `k / 4`. -/
theorem bytesToWords_extractByte {bytes : List Byte} {k : Nat} (hk : k < bytes.length) :
    ((bytesToWords bytes).getD (k / 4) 0#32).extractLsb' (8 * (k % 4)) 8 = bytes[k] := by
  have hword : k / 4 < byteWordCount bytes.length := by unfold byteWordCount; omega
  have hbyte : k % 4 < 4 := Nat.mod_lt _ (by decide)
  have hpick : ∀ q m, m < 4 → [bytes.getD (4 * q) 0#8, bytes.getD (4 * q + 1) 0#8, bytes.getD (4 * q + 2) 0#8,
      bytes.getD (4 * q + 3) 0#8].getD m 0#8 = bytes.getD (4 * q + m) 0#8 := fun q m hm => by
    interval_cases m <;> rfl
  rw [List.getD_eq_getElem _ _ (by simpa using hword)]
  simp only [bytesToWords, List.getElem_map, List.getElem_range]
  rw [wordOfBytes_extractByte _ _ _ _ hbyte, hpick _ _ hbyte, Nat.div_add_mod, List.getD_eq_getElem _ _ hk]

theorem wordsToBytes_bytesToWords (bytes : List Byte) : wordsToBytes bytes.length (bytesToWords bytes) = bytes := by
  refine List.ext_getElem (by simp [wordsToBytes]) fun k hk _ => ?_
  have hk' : k < bytes.length := by simpa [wordsToBytes] using hk
  simpa [wordsToBytes] using bytesToWords_extractByte hk'

/-! ### Each port's decoder on the encoder's packets -/

theorem decodeStatus_readHeader (c : Config) (addr : BitVec 8) :
    decodeStatus c { header := readHeader addr } = .ok (readWordAt c addr) := by
  simp [decodeStatus]

/-- Past the named registers an address is a symbol's or is reserved (rules R81 and R82). -/
theorem readWordAt_of_le (c : Config) {addr : BitVec 8} (h : 10 ≤ addr.toNat) :
    readWordAt c addr =
      if 16 ≤ addr.toNat ∧ addr.toNat < 16 + c.nSym then .readSym (addr.toNat - 16) else .readReserved addr := by
  unfold readWordAt
  split
  case h_11 => rfl
  all_goals omega

theorem decode_encode_readSym {c : Config} {k : Nat} (hsym : k < c.nSym) (haddr : k < 240) :
    decode .status c (encode (.readSym k)) = .ok (.readSym k) := by
  have hnat : (BitVec.ofNat 8 (16 + k)).toNat = 16 + k := by simp; omega
  simp only [decode, encode]
  rw [decodeStatus_readHeader, readWordAt_of_le c (by omega), hnat, if_pos (by omega), Nat.add_sub_cancel_left]

theorem decode_encode_readReserved {c : Config} {addr : BitVec 8} (h : reservedAddr c addr = true) :
    decode .status c (encode (.readReserved addr)) = .ok (.readReserved addr) := by
  simp only [reservedAddr, Bool.or_eq_true, Bool.and_eq_true, decide_eq_true_eq] at h
  simp only [decode, encode]
  rw [decodeStatus_readHeader, readWordAt_of_le c (by omega), if_neg (by omega)]

theorem decode_encode_demodReq {c : Config} {r : BitVec 16} {xs : List Sample} (h : xs.length = r.toNat) :
    decode .demod c (encode (.demodReq r xs)) = .ok (.demodReq r xs) := by
  have hwords : (encode (.demodReq r xs)).words = [] := rfl
  have hsamples : (encode (.demodReq r xs)).samples = xs := rfl
  simp [decode, decodeDemod, hwords, hsamples, h]

theorem decode_encode_decRepair {c : Config} {bits : List Bool} (h : bits.length = c.frameBits) :
    decode .decoder c (encode (.decRepair bits)) = .ok (.decRepair bits) := by
  simp [decode, decodeDecoder, encode, ← h, wordsToBits_bitsToWords]

theorem decode_encode_decDecode {c : Config} {bytes : List Byte} (h : bytes.length = c.nbytes) :
    decode .decoder c (encode (.decDecode bytes)) = .ok (.decDecode bytes) := by
  simp [decode, decodeDecoder, encode, ← h, wordsToBytes_bytesToWords]

/-- The packet of a well-formed transaction decodes to it on its own port. -/
theorem decode_encode {c : Config} {i : Instr} (h : i.WellFormed c) : decode i.port c (encode i) = .ok i := by
  cases i with
  | push samples =>
    have hlen : samples.length = c.nPush := by simpa [Instr.WellFormed, Instr.wellFormed] using h
    simp [Instr.port, decode, decodeCommand, encode, hlen]
  | readSym k =>
    obtain ⟨hsym, haddr⟩ : k < c.nSym ∧ k < 240 := by simpa [Instr.WellFormed, Instr.wellFormed] using h
    exact decode_encode_readSym hsym haddr
  | readReserved addr => exact decode_encode_readReserved h
  | demodReq r samples => exact decode_encode_demodReq (by simpa [Instr.WellFormed, Instr.wellFormed] using h)
  | decRepair bits => exact decode_encode_decRepair (by simpa [Instr.WellFormed, Instr.wellFormed] using h)
  | decDecode bytes => exact decode_encode_decDecode (by simpa [Instr.WellFormed, Instr.wellFormed] using h)
  | _ => rfl

end Sys2Proof
end

section
/-! PROOF. The byte-wide channel (rules R53 and R54): what goes over it comes back, and each byte has its place. The
first word's four bytes are followed at once by the payload (log entry 15), so a payload byte's place is its place in
the payload's block, moved by four. -/

namespace Sys2Proof

/-! ### Bytes and their places -/

/-- Byte `k` of a bit vector, counted from the least significant, as a number. -/
theorem extractByte_eq_ofNat {n : Nat} (x : BitVec n) (k : Nat) :
    x.extractLsb' (8 * k) 8 = BitVec.ofNat 8 (x.toNat / 2 ^ (8 * k)) := by
  rw [← Nat.shiftRight_eq_div_pow]
  rfl

/-- Byte `k` of the word that comes first stands at `k` (rule R54). -/
theorem wordBytes_append_getD (w : Word) (tail : List Byte) {k : Nat} (hk : k < 4) :
    (wordBytes w ++ tail).getD k 0#8 = BitVec.ofNat 8 (w.toNat / 2 ^ (8 * k)) := by
  rw [← extractByte_eq_ofNat, List.getD_append _ _ _ _ (by simpa [wordBytes] using hk)]
  interval_cases k <;> rfl

/-- Byte `k` of word `i` of a sequence of words stands at `4*i + k` (rule R54). -/
theorem wordBlockBytes_getD_ofNat {ws : List Word} {i k : Nat} (hi : i < ws.length) (hk : k < 4) :
    (wordBlockBytes ws).getD (4 * i + k) 0#8 = BitVec.ofNat 8 ((ws.getD i 0#32).toNat / 2 ^ (8 * k)) := by
  rw [wordBlockBytes_getD ws hi hk, extractByte_eq_ofNat]

/-- Byte `k` of sample `j` behind a first word stands at `4 + 2*j + k` (rule R53). -/
theorem wordThenSamples_getD (w : Word) {xs : List Sample} {j k : Nat} (hj : j < xs.length) (hk : k < 2) :
    (wordBytes w ++ sampleBlockBytes xs).getD (4 + 2 * j + k) 0#8 =
      BitVec.ofNat 8 ((xs.getD j 0#16).toNat / 2 ^ (8 * k)) := by
  have hplace : 4 + 2 * j + k - (wordBytes w).length = 2 * j + k := by simp [wordBytes]; omega
  rw [List.getD_append_right _ _ _ _ (by simp [wordBytes]; omega), hplace, sampleBlockBytes_getD xs hj hk,
    extractByte_eq_ofNat]

/-! ### Requests and commands -/

/-- A packet whose payload has the form its header announces reads back from its bytes. -/
theorem packetOfBytes_toBytes {p : Port} {m : Packet}
    (h : if carriesSamples p m.header then m.words = [] else m.samples = []) :
    packetOfBytes p m.toBytes = .ok m := by
  obtain ⟨header, words, samples⟩ := m
  cases hs : carriesSamples p header with
  | true =>
    obtain rfl : words = [] := by simpa [hs] using h
    simp [packetOfBytes, Packet.toBytes, wordBytes, wordBlockBytes, wordOfBytes_wordBytes, hs,
      samplesOfBytes_sampleBlockBytes]
  | false =>
    obtain rfl : samples = [] := by simpa [hs] using h
    simp [packetOfBytes, Packet.toBytes, wordBytes, sampleBlockBytes, wordOfBytes_wordBytes, hs,
      wordsOfBytes_wordBlockBytes]

/-- Every transaction's payload has the form its header announces (rules R70 and R85). -/
theorem encode_payload (i : Instr) :
    if carriesSamples i.port (encode i).header then (encode i).words = [] else (encode i).samples = [] := by
  cases i with
  | demodReq r samples =>
    have hcarries : carriesSamples .demod (encode (.demodReq r samples)).header = true := by simp [carriesSamples]
    exact (if_pos hcarries).mpr rfl
  | _ => rfl

theorem decodeBytes_toBytes_encode {c : Config} {i : Instr} (h : i.WellFormed c) :
    decodeBytes i.port c (encode i).toBytes = .ok i := by
  rw [decodeBytes, packetOfBytes_toBytes (encode_payload i)]
  exact decode_encode h

/-! ### Answers -/

namespace Machine

theorem responseOfBytes_responseBytes (rsp : Response) : responseOfBytes (responseBytes rsp) = .ok rsp := by
  rw [responseOfBytes, responseBytes, wordThenSamples_bytes]

theorem statusAnswerOfBytes_statusAnswerBytes (ws : List Word) :
    statusAnswerOfBytes (statusAnswerBytes ws) = .ok ws := by
  rw [statusAnswerOfBytes, statusAnswerBytes, wordsOfBytes_wordBlockBytes]

/-- Of the adapter requests only DEC_DECODE is answered with samples (rules R86 to R89). -/
theorem replyCarriesSamples_eq_false {request : Instr} (hne : ∀ bytes, request ≠ .decDecode bytes)
    (hport : request.port = .demod ∨ request.port = .decoder) : replyCarriesSamples request = false := by
  cases request with
  | demodInit => decide
  | demodReq r samples => exact replyCarriesSamples_demodReq r samples
  | decInit => decide
  | decRepair bits => exact replyCarriesSamples_decRepair bits
  | decDecode bytes => exact absurd rfl (hne bytes)
  | _ => simp [Instr.port] at hport

theorem replyBytes_words (ws : List Word) : replyBytes { words := ws } = wordBlockBytes ws := by
  simp [replyBytes, sampleBlockBytes]

theorem replyBytes_wordThenSamples (w : Word) (audio : List Sample) :
    replyBytes { words := [w], samples := audio } = wordBytes w ++ sampleBlockBytes audio := by
  simp [replyBytes, wordBlockBytes]

theorem replyOfBytes_words {request : Instr} (h : replyCarriesSamples request = false) (ws : List Word) :
    replyOfBytes request (replyBytes { words := ws }) = .ok { words := ws } := by
  simp [replyOfBytes, h, replyBytes_words, wordsOfBytes_wordBlockBytes]

theorem replyOfBytes_decDecode (bytes : List Byte) (w : Word) (audio : List Sample) :
    replyOfBytes (.decDecode bytes) (replyBytes { words := [w], samples := audio }) =
      .ok { words := [w], samples := audio } := by
  simp [replyOfBytes, replyCarriesSamples_decDecode, replyBytes_wordThenSamples, wordThenSamples_bytes]

/-- Settles O4: a round trip and the places of the bytes for each form that crosses a port. -/
theorem byteChannelRoundTrip : Obligations.ByteChannelRoundTrip := by
  refine ⟨fun c i h => decodeBytes_toBytes_encode h, fun m k hk => ?_, fun h xs j k hj hk => ?_,
    fun rsp => ⟨responseOfBytes_responseBytes rsp, fun k hk => ?_, fun j k hj hk => ?_⟩,
    fun ws => ⟨statusAnswerOfBytes_statusAnswerBytes ws, fun i k hi hk => ?_⟩,
    fun ws request hne hport => ⟨replyOfBytes_words (replyCarriesSamples_eq_false hne hport) ws, fun i k hi hk => ?_⟩,
    fun w audio bytes => ⟨replyOfBytes_decDecode bytes w audio, fun k hk => ?_, fun j k hj hk => ?_⟩⟩
  · rw [Packet.toBytes, List.append_assoc]
    exact wordBytes_append_getD m.header _ hk
  · simpa [Packet.toBytes, wordBlockBytes] using wordThenSamples_getD h hj hk
  · exact wordBytes_append_getD rsp.word _ hk
  · exact wordThenSamples_getD rsp.word hj hk
  · exact wordBlockBytes_getD_ofNat hi hk
  · rw [replyBytes_words]
    exact wordBlockBytes_getD_ofNat hi hk
  · rw [replyBytes_wordThenSamples]
    exact wordBytes_append_getD w _ hk
  · rw [replyBytes_wordThenSamples]
    exact wordThenSamples_getD w hj hk

end Machine

end Sys2Proof
end

section
/-! PROOF. Encoding undoes decoding, on every port. A header is its own fields put together again, so a packet that
passes its decoder's checks is the encoder's packet of what was decoded (rules R71 to R75, R80, R84 and R85). -/

namespace Sys2Proof

/-! ### A header from its fields (rules R71, R80 and R85) -/

/-- A bit vector is its upper and its lower part put together again. -/
theorem extractHigh_append_extractLow {m n : Nat} (w : BitVec (m + n)) :
    w.extractLsb' n m ++ w.extractLsb' 0 n = w := by
  rw [BitVec.extractLsb'_append_extractLsb'_eq_extractLsb' (by simp), BitVec.extractLsb'_eq_self]

theorem opHeader_eq_of_fields {w : Word} {op : BitVec 8} (hop : opField w = op) (hmbz : low24 w = 0#24) :
    opHeader op = w := by
  rw [opHeader, ← hop, ← hmbz]
  exact extractHigh_append_extractLow (m := 8) (n := 24) w

theorem readHeader_eq_of_fields {w : Word} (hop : opField w = 0x00#8) (hmbz : statusMbz w = 0#16) :
    readHeader (statusAddr w) = w := by
  have hupper : (opField w ++ statusMbz w : BitVec 24) = w.extractLsb' 8 24 :=
    BitVec.extractLsb'_append_extractLsb'_eq_extractLsb' rfl
  rw [hop, hmbz] at hupper
  rw [readHeader, show 0#24 = 0x00#8 ++ 0#16 from rfl, hupper]
  exact extractHigh_append_extractLow (m := 24) (n := 8) w

theorem snapshotHeader_eq_of_fields {w : Word} (hop : opField w = 0x01#8) (hmbz : statusMbz w = 0#16)
    (haddr : statusAddr w = 0#8) : opHeader 0x01#8 = w := by
  refine opHeader_eq_of_fields hop ?_
  have hlow : (statusMbz w ++ statusAddr w : BitVec 24) = low24 w :=
    BitVec.extractLsb'_append_extractLsb'_eq_extractLsb' rfl
  rw [← hlow, hmbz, haddr]
  rfl

theorem demodReqHeader_eq_of_fields {w : Word} (hop : opField w = 0x11#8) (hmbz : demodMbz w = 0#8) :
    0x11#8 ++ 0#8 ++ demodCount w = w := by
  have hupper : (opField w ++ demodMbz w : BitVec 16) = w.extractLsb' 16 16 :=
    BitVec.extractLsb'_append_extractLsb'_eq_extractLsb' rfl
  rw [← hop, ← hmbz, hupper]
  exact extractHigh_append_extractLow (m := 16) (n := 16) w

/-! ### Each port's decoder accepts only the encoder's packets -/

/-- `i` is a well-formed transaction of port `p`, and `m` is the packet that carries it. -/
def Carries (p : Port) (c : Config) (m : Packet) (i : Instr) : Prop :=
  i.port = p ∧ i.WellFormed c ∧ encode i = m

theorem carries_of_decodeCommand {c : Config} {m : Packet} {i : Instr} (h : decodeCommand c m = .ok i) :
    Carries .command c m i := by
  obtain ⟨header, words, samples⟩ := m
  unfold decodeCommand at h
  split_ifs at h with hcreate hmbz hpayload hpush hmbz hpayload
  · obtain ⟨rfl, rfl⟩ : words = [] ∧ samples = [] := by simpa using hpayload
    cases h
    refine ⟨rfl, rfl, ?_⟩
    rw [encode, opHeader_eq_of_fields hcreate (not_not.mp hmbz)]
  · obtain ⟨rfl, hlen⟩ : words = [] ∧ samples.length = c.nPush := by simpa using hpayload
    cases h
    refine ⟨rfl, by simpa [Instr.WellFormed, Instr.wellFormed] using hlen, ?_⟩
    rw [encode, opHeader_eq_of_fields hpush (not_not.mp hmbz)]

/-- The register of an address is well formed, and its request carries that address (rules R81 and R82). -/
theorem carries_readWordAt (c : Config) (addr : BitVec 8) :
    Carries .status c { header := readHeader addr } (readWordAt c addr) := by
  by_cases hnamed : addr.toNat < 10
  · obtain ⟨k, hk, rfl⟩ : ∃ k, k < 10 ∧ addr = BitVec.ofNat 8 k := ⟨addr.toNat, hnamed, by simp⟩
    interval_cases k <;> exact ⟨rfl, rfl, rfl⟩
  · have hlt := addr.isLt
    rw [readWordAt_of_le c (by omega)]
    split
    · have haddr : BitVec.ofNat 8 (16 + (addr.toNat - 16)) = addr := by
        rw [Nat.add_sub_cancel' (by omega), BitVec.ofNat_toNat, BitVec.setWidth_eq]
      refine ⟨rfl, ?_, by rw [encode, haddr]⟩
      simp only [Instr.WellFormed, Instr.wellFormed, Bool.and_eq_true, decide_eq_true_eq]
      omega
    · refine ⟨rfl, ?_, rfl⟩
      simp only [Instr.WellFormed, Instr.wellFormed, reservedAddr, Bool.or_eq_true, Bool.and_eq_true,
        decide_eq_true_eq]
      omega

theorem carries_of_decodeStatus {c : Config} {m : Packet} {i : Instr} (h : decodeStatus c m = .ok i) :
    Carries .status c m i := by
  obtain ⟨header, words, samples⟩ := m
  unfold decodeStatus at h
  split_ifs at h with hpayload hread hmbz hsnapshot hmbz haddr
  all_goals
    obtain ⟨rfl, rfl⟩ : words = [] ∧ samples = [] := by simpa using hpayload
    cases h
  · simpa only [readHeader_eq_of_fields hread (not_not.mp hmbz)] using carries_readWordAt c (statusAddr header)
  · refine ⟨rfl, rfl, ?_⟩
    rw [encode, snapshotHeader_eq_of_fields hsnapshot (not_not.mp hmbz) (not_not.mp haddr)]

theorem carries_of_decodeDemod {c : Config} {m : Packet} {i : Instr} (h : decodeDemod m = .ok i) :
    Carries .demod c m i := by
  obtain ⟨header, words, samples⟩ := m
  unfold decodeDemod at h
  split_ifs at h with hinit hmbz hpayload hreq hmbz hpayload
  · obtain ⟨rfl, rfl⟩ : words = [] ∧ samples = [] := by simpa using hpayload
    cases h
    refine ⟨rfl, rfl, ?_⟩
    rw [encode, opHeader_eq_of_fields hinit (not_not.mp hmbz)]
  · obtain ⟨rfl, hlen⟩ : words = [] ∧ samples.length = (demodCount header).toNat := by simpa using hpayload
    cases h
    refine ⟨rfl, by simpa [Instr.WellFormed, Instr.wellFormed] using hlen, ?_⟩
    rw [encode, demodReqHeader_eq_of_fields hreq (not_not.mp hmbz)]

theorem carries_of_decodeDecoder {c : Config} {m : Packet} {i : Instr} (h : decodeDecoder c m = .ok i) :
    Carries .decoder c m i := by
  obtain ⟨header, words, samples⟩ := m
  unfold decodeDecoder at h
  split_ifs at h with hinit hmbz hpayload hrepair hmbz hpayload hpadding hdecode hmbz hpayload hpadding
  · obtain ⟨rfl, rfl⟩ : words = [] ∧ samples = [] := by simpa using hpayload
    cases h
    refine ⟨rfl, rfl, ?_⟩
    rw [encode, opHeader_eq_of_fields hinit (not_not.mp hmbz)]
  · obtain ⟨-, rfl⟩ : _ ∧ samples = [] := by simpa using hpayload
    cases h
    refine ⟨rfl, by simp [Instr.WellFormed, Instr.wellFormed, wordsToBits], ?_⟩
    rw [encode, opHeader_eq_of_fields hrepair (not_not.mp hmbz), not_not.mp hpadding]
  · obtain ⟨-, rfl⟩ : _ ∧ samples = [] := by simpa using hpayload
    cases h
    refine ⟨rfl, by simp [Instr.WellFormed, Instr.wellFormed, wordsToBytes], ?_⟩
    rw [encode, opHeader_eq_of_fields hdecode (not_not.mp hmbz), not_not.mp hpadding]

theorem carries_of_decode {p : Port} {c : Config} {m : Packet} {i : Instr} (h : decode p c m = .ok i) :
    Carries p c m i := by
  cases p with
  | command => exact carries_of_decodeCommand h
  | status => exact carries_of_decodeStatus h
  | demod => exact carries_of_decodeDemod h
  | decoder => exact carries_of_decodeDecoder h

end Sys2Proof

namespace Sys2Proof.Machine

/-- Settles O2: `decode_encode` for the port the transaction crosses. -/
theorem decodeOfEncode : Obligations.DecodeOfEncode := fun _ _ h => decode_encode h

/-- Settles O3: the four decoders accept only the encoder's packets. -/
theorem encodeOfDecode : Obligations.EncodeOfDecode := fun _ _ _ _ h => carries_of_decode h

/-- Settles O1: each packet written out is the packet of its transaction, so it decodes to it. -/
theorem writtenWordsDecode : Obligations.WrittenWordsDecode :=
  ⟨decode_encode (i := .create) rfl, decode_encode (i := .push [1#16, 2#16, 3#16, 4#16]) rfl,
    decode_encode (i := .readSnr) rfl, decode_encode (i := .readSym 1) rfl,
    decode_encode (i := .readReserved 0x12#8) rfl, decode_encode (i := .readSnapshot) rfl,
    decode_encode (i := .demodReq 3#16 [7#16, 8#16, 9#16]) rfl,
    decode_encode (i := .decRepair [true, false, true, true, false, true, true, false]) rfl,
    decode_encode (i := .decDecode [0xB6#8]) rfl⟩

end Sys2Proof.Machine
end

section
/-! PROOF. Where each bit of a bit vector travels (rule R84), and the packets that script lines stand for (rule R94). -/

namespace Sys2Proof

/-! ### Bit vectors in words (rule R84) -/

/-- Bit `b` of word `k` is bit `32*k + b` of the vector, and 0 past its end. -/
theorem bitsToWords_getD_getLsbD (bits : List Bool) (k : Nat) {b : Nat} (hb : b < 32) :
    ((bitsToWords bits).getD k 0#32).getLsbD b = bits.getD (32 * k + b) false := by
  by_cases hk : k < bitWordCount bits.length
  · rw [List.getD_eq_getElem _ _ (by simpa using hk)]
    simp only [bitsToWords, List.getElem_map, List.getElem_range, BitVec.getLsbD_ofNat, natOfBits_testBit, hb,
      decide_true, Bool.true_and]
    simp [hb]
  · have hpast : bits.length ≤ 32 * k + b := by unfold bitWordCount at hk; omega
    rw [List.getD_eq_default _ _ (by simpa using hk), List.getD_eq_default _ _ hpast, BitVec.getLsbD_zero]

@[simp] theorem wordsToBits_length (n : Nat) (ws : List Word) : (wordsToBits n ws).length = n := by simp [wordsToBits]

/-- Bit `j` of the vector is read from bit `j mod 32` of word `j / 32`. -/
theorem wordsToBits_getD {n j : Nat} (ws : List Word) (hj : j < n) :
    (wordsToBits n ws).getD j false = (ws.getD (j / 32) 0#32).getLsbD (j % 32) := by
  simp [wordsToBits, hj]

namespace Machine

/-- Settles O5: the used bits and the unused ones are one lookup in the vector. -/
theorem bitVectorTransport : Obligations.BitVectorTransport := by
  refine fun bits => ⟨bitsToWords_length bits, fun j _ => ?_, fun k b hb hpast => ?_⟩
  · rw [bitsToWords_getD_getLsbD bits _ (Nat.mod_lt j (by decide)), Nat.div_add_mod]
  · rw [bitsToWords_getD_getLsbD bits k hb, List.getD_eq_default _ _ hpast]

/-! ### Script lines (rule R94) -/

/-- A list of literals that `f` reads one by one. -/
theorem allLiterals_map {α β : Type} {f : Literal → Option β} {write : α → Literal} {value : α → β} {vs : List α}
    (h : ∀ v ∈ vs, f (write v) = some (value v)) : allLiterals f (vs.map write) = some (vs.map value) := by
  induction vs with
  | nil => rfl
  | cons v vs ih =>
    obtain ⟨hhead, htail⟩ := List.forall_mem_cons.mp h
    simp [allLiterals, hhead, ih htail]

/-- One literal without a value leaves the list without one. -/
theorem allLiterals_eq_none {β : Type} {f : Literal → Option β} {ls : List Literal} (h : ∃ l ∈ ls, f l = none) :
    allLiterals f ls = none := by
  induction ls with
  | nil => simp at h
  | cons l ls ih =>
    obtain hhead | htail := List.or_exists_of_exists_mem_cons h
    · simp [allLiterals, hhead]
    · simp [allLiterals, ih htail]

theorem sampleLiteral_dec {v : Int} (h : -32768 ≤ v ∧ v ≤ 32767) :
    sampleLiteral (.dec v) = some (BitVec.ofInt 16 v) := if_pos h

theorem sampleLiteral_dec_eq_none {v : Int} (h : v < -32768 ∨ 32767 < v) : sampleLiteral (.dec v) = none :=
  if_neg (by omega)

theorem sampleLiteral_hex {n : Nat} (h : n ≤ 0xFFFF) : sampleLiteral (.hex n) = some (BitVec.ofNat 16 n) := if_pos h

/-- A PUSH line whose literals have the values `xs` assembles to the packet of PUSH `xs`. -/
theorem assemble_push {ls : List Literal} {xs : List Sample} (h : allLiterals sampleLiteral ls = some xs) :
    assemble (.push ls) = some (.command, encode (.push xs)) := by
  simp only [assemble, h]
  rfl

/-- A PUSH line with `N_PUSH` literals that have values decodes to the PUSH of the values. -/
theorem push_line_decodes {α : Type} {c : Config} {write : α → Literal} {value : α → Sample} {vs : List α}
    (hlen : vs.length = c.nPush) (h : ∀ v ∈ vs, sampleLiteral (write v) = some (value v)) :
    ∃ m, assemble (.push (vs.map write)) = some (.command, m) ∧ decode .command c m = .ok (.push (vs.map value)) :=
  ⟨_, assemble_push (allLiterals_map h),
    decode_encode (i := .push (vs.map value)) (by simpa [Instr.WellFormed, Instr.wellFormed] using hlen)⟩

/-- The header of a READ is its address as a number (rule R80). -/
theorem readHeader_ofNat {n : Nat} (h : n < 256) : readHeader (BitVec.ofNat 8 n) = BitVec.ofNat 32 n := by
  refine BitVec.eq_of_toNat_eq ((BitVec.toNat_append 0#24 (BitVec.ofNat 8 n)).trans ?_)
  simp
  omega

theorem assemble_readSym {k : Nat} (h : k < 240) :
    assemble (.readName (.sym k)) = some (.status, encode (.readSym k)) := by
  have haddr : registerAddr (.sym k) < 256 := by simp only [registerAddr]; omega
  rw [assemble, if_pos haddr, encode, ← readHeader_ofNat haddr]
  rfl

theorem assemble_readAddr_hex {n : Nat} (h : n ≤ 0xFF) :
    assemble (.readAddr (.hex n)) = some (.status, { header := BitVec.ofNat 32 n }) := by
  have haddr : addrLiteral (.hex n) = some (BitVec.ofNat 8 n) := if_pos h
  simp only [assemble, haddr, Option.map_some, readHeader_ofNat (show n < 256 by omega)]

/-- Settles O6: each line assembles to the packet of its transaction, which decodes to it. -/
theorem scriptLinesDecode : Obligations.ScriptLinesDecode := by
  refine fun c => ⟨⟨_, rfl, decode_encode (i := .create) rfl⟩,
    fun vs hlen hrange => push_line_decodes hlen fun v hv => sampleLiteral_dec (hrange v hv),
    fun ns hlen hrange => push_line_decodes hlen fun n hn => sampleLiteral_hex (hrange n hn),
    fun vs ⟨v, hv, hout⟩ => ?_, fun k hsym haddr => ⟨_, assemble_readSym haddr, decode_encode_readSym hsym haddr⟩,
    fun n hn => assemble_readAddr_hex hn, ⟨_, rfl, decode_encode (i := .readSnapshot) rfl⟩⟩
  have hnone : allLiterals sampleLiteral (vs.map .dec) = none :=
    allLiterals_eq_none ⟨.dec v, List.mem_map_of_mem hv, sampleLiteral_dec_eq_none hout⟩
  simp only [assemble, hnone, Option.map_none]

end Machine

end Sys2Proof
end

section
/-! PROOF. The demodulator's request and the repair, and the READ_WORD of every address: what goes out, what is taken
from the answer, and the frame of each (rules R81, R86, R88, R146, R172 and R178). -/

namespace Sys2Proof.Machine

/-! ### Adapter answers (rules R86 and R88) -/

/-- Counting up to 255 (rules R154 and R178). -/
theorem satInc_eq_ofNat_min (n : BitVec 8) : satInc n = BitVec.ofNat 8 (min (n.toNat + 1) 255) := by
  unfold satInc
  split
  · subst n
    rfl
  · have hlt : n.toNat < 255 := by bv_omega
    rw [Nat.min_eq_left (by omega), BitVec.ofNat_add, BitVec.ofNat_toNat, BitVec.setWidth_eq]

/-- A DEMOD_REQ response of the right length, each field at its place (rule R86). -/
theorem parseDemod_words {c : Config} {w0 w1 toff foff clkoff : Word} {sym bw : List Word}
    (hsym : sym.length = c.nSym) (hbw : bw.length = bitWordCount c.b) :
    parseDemod c { words := w0 :: w1 :: toff :: foff :: clkoff :: (sym ++ bw) } = some
      { valid := w0.getLsbD 0, sync := w0.getLsbD 1, lock := w0.getLsbD 2, nextR := w0.extractLsb' 16 16,
        snr := w1.extractLsb' 0 16, toff := toff, foff := foff, clkoff := clkoff, sym := sym,
        bits := wordsToBits c.b bw } := by
  have hlen : (w0 :: w1 :: toff :: foff :: clkoff :: (sym ++ bw)).length =
      demodFixedWords + c.nSym + bitWordCount c.b := by
    simp [demodFixedWords, hsym, hbw]
    omega
  rw [parseDemod, if_pos ⟨hlen, rfl⟩]
  simp [demodFixedWords, replyBit0, ← hsym, Nat.add_comm 5]

/-- A DEC_REPAIR response of the right length (rule R88). -/
theorem parseRepair_words {c : Config} {bw : List Word} (h : bw.length = bitWordCount c.frameBits) :
    parseRepair c { words := bw } = some (wordsToBits c.frameBits bw) :=
  if_pos ⟨h, rfl⟩

/-! ### An adapter request's two steps (rules R63 and R305) -/

theorem exec_demodReq_issue {s : State} (r : BitVec 16) (xs : List Sample) (ha : s.awaiting = false) :
    exec (.demodReq r xs) s = .next (issue (.demodReq r xs) s) := if_pos ha

theorem exec_demodReq_answer {s : State} {y : Reply} {rest : List Reply} {d : DemodRsp} (r : BitVec 16)
    (xs : List Sample) (ha : s.awaiting = true) (hy : s.demodIn = y :: rest) (hd : parseDemod s.cfg y = some d) :
    exec (.demodReq r xs) s = .next (demodReqAnswer d (takeDemod rest s)) := by
  simp [exec, execDemodReq, ha, hy, hd]

theorem exec_decRepair_issue {s : State} (bits : List Bool) (ha : s.awaiting = false) :
    exec (.decRepair bits) s = .next (issue (.decRepair bits) s) := if_pos ha

theorem exec_decRepair_answer {s : State} {y : Reply} {rest : List Reply} {repaired : List Bool} (bits : List Bool)
    (ha : s.awaiting = true) (hy : s.decIn = y :: rest) (hr : parseRepair s.cfg y = some repaired) :
    exec (.decRepair bits) s = .next (decRepairAnswer repaired (takeDec rest s)) := by
  simp [exec, execDecRepair, ha, hy, hr]

/-- In P_REPAIR_WAIT the repaired bits replace `PEND`, and the decoder is next (rule R146). -/
theorem decRepairAnswer_of_phase {s : State} {d : DemodRsp} (repaired : List Bool) (hp : s.phase = .pRepairWait d) :
    decRepairAnswer repaired s = { s with pend := repaired, phase := .pDecodeWait d } := by
  simp [decRepairAnswer, frameRsp, hp]

/-- The iteration is counted, the answer has left the port, and the consume phase has the record (rule R172). -/
theorem demodReqAnswer_takeDemod (d : DemodRsp) (rest : List Reply) (s : State) :
    demodReqAnswer d (takeDemod rest s) = { s with
      demodIn := rest, awaiting := false, phase := .pConsume d,
      iterCnt := BitVec.ofNat 8 (min (s.iterCnt.toNat + 1) 255) } := by
  rw [← satInc_eq_ofNat_min]
  rfl

/-- Settles O23: the issue, and the answer with the record that the response's words make. -/
theorem demodReqCompletes : Obligations.DemodReqCompletes := by
  refine fun s n xs _ => ⟨fun ha => exec_demodReq_issue n xs ha,
    fun w0 w1 toff foff clkoff sym bw rest ha hsym hbw hin => ?_⟩
  have hanswer := exec_demodReq_answer n xs ha hin (parseDemod_words hsym hbw)
  have hnext : (w0.extractLsb' 16 16).toNat = w0.toNat / 2 ^ 16 := by
    have hlt := w0.isLt
    rw [BitVec.extractLsb'_toNat, Nat.shiftRight_eq_div_pow, Nat.mod_eq_of_lt (by omega)]
  exact ⟨_, hanswer.trans (congrArg _ (demodReqAnswer_takeDemod _ rest s)), rfl, rfl, rfl, hnext, rfl, rfl, rfl, rfl,
    rfl, wordsToBits_length _ _, fun j hj => wordsToBits_getD bw hj⟩

/-- Settles O24: the step's issue carries `PEND`, and the answer's words become the new `PEND`. -/
theorem decRepairCompletes : Obligations.DecRepairCompletes := by
  refine fun s d bits hp => ⟨fun ha hstatus hsched => ?_, fun ha => exec_decRepair_issue bits ha,
    fun bw rest ha hbw hin => ?_⟩
  · have hreq : adapterInstr s = some (.decRepair s.pend) := by rw [adapterInstr, hp]
    rw [step_of_quiet hsched hstatus, sequencerStep_eq_adapter hreq]
    exact exec_decRepair_issue s.pend ha
  · refine ⟨wordsToBits s.cfg.frameBits bw, (exec_decRepair_answer bits ha hin (parseRepair_words hbw)).trans ?_,
      wordsToBits_length _ _, fun j hj => wordsToBits_getD bw hj⟩
    rw [decRepairAnswer_of_phase (s := takeDec rest s) _ hp]
    rfl

/-! ### The register map (rule R81) -/

theorem sessWord_eq_registerValue (s : State) : sessWord s.sess = registerValue s 0x00 := by
  simp only [registerValue]
  cases s.sess <;> rfl

theorem syncWord_eq_registerValue (s : State) : syncWord s.snap = registerValue s 0x01 := by
  simp only [registerValue, syncWord, synced]
  cases s.snap.fsmPub <;> rfl

theorem fsmWord_eq_registerValue (s : State) : fsmWord s.snap = registerValue s 0x02 := by
  simp only [registerValue, fsmWord]
  cases s.snap.fsmPub <;> rfl

/-- A READ_WORD of a named register answers the map's value. -/
theorem exec_readWordAt_named (s : State) {k : Nat} (h : k < 10) :
    exec (readWordAt s.cfg (BitVec.ofNat 8 k)) s = .next (answerStatus [registerValue s k] s) := by
  interval_cases k
  · rw [← sessWord_eq_registerValue]; rfl
  · rw [← syncWord_eq_registerValue]; rfl
  · rw [← fsmWord_eq_registerValue]; rfl
  all_goals rfl

/-- Past the named registers the map holds the symbols, and 0 at every other address. -/
theorem registerValue_of_le (s : State) {addr : Nat} (h : 10 ≤ addr) :
    registerValue s addr = if 0x10 ≤ addr ∧ addr < 0x10 + s.cfg.nSym then symWord s.snap (addr - 0x10) else 0#32 := by
  unfold registerValue
  iterate 10 rw [if_neg (by omega)]
  rfl

/-- A READ_WORD of any address answers the map's value (rules R81 and R82). -/
theorem exec_readWordAt (s : State) (addr : BitVec 8) :
    exec (readWordAt s.cfg addr) s = .next (answerStatus [registerValue s addr.toNat] s) := by
  by_cases hnamed : addr.toNat < 10
  · simpa using exec_readWordAt_named s hnamed
  · rw [readWordAt_of_le _ (by omega), registerValue_of_le _ (by omega)]
    split <;> rfl

/-- Settles O41: a READ_WORD decodes to the register of its address, which answers the map's value there. -/
theorem readWordFollowsRegisterMap : Obligations.ReadWordFollowsRegisterMap := by
  intro s addr rest sched hin hsched
  have hdecode : decode .status s.cfg { header := 0#24 ++ addr } = .ok (readWordAt s.cfg addr) :=
    decodeStatus_readHeader s.cfg addr
  have hread : readerStep { s with schedule := sched } =
      .next (answerStatus [registerValue s addr.toNat] { s with schedule := sched }) :=
    (readerStep_eq_exec (s := { s with schedule := sched }) hin hdecode).trans
      (exec_readWordAt { s with schedule := sched } addr)
  rw [step_of_reader hsched, hread, answerStatus, hin]
  rfl

end Sys2Proof.Machine
end

section
/-! PROOF. The ring buffers and the sequences they stand for (rules R101 to R113), who writes them (rules R108 and
R109), and the drain's answer (rules R215 and R216). Cells at two offsets below the capacity are two cells, so an APPEND
writes only cells behind the samples held, and the sequence grows at its end. -/

namespace Sys2Proof.Machine

/-! ### The cells an APPEND writes (rule R111) -/

/-- Two offsets below the capacity name two cells. -/
theorem ringIndex_ne {cap pos i j : Nat} (hi : i < cap) (hj : j < cap) (hne : i ≠ j) :
    (pos + i) % cap ≠ (pos + j) % cap := fun h =>
  hne ((Nat.ModEq.add_left_cancel' pos h).eq_of_lt_of_lt hi hj)

theorem ringStore_getD_of_ne {cap a : Nat} {v mem : List Sample} {pos : Nat}
    (h : ∀ j, j < v.length → a ≠ (pos + j) % cap) :
    (ringStore cap mem pos v).getD a 0#16 = mem.getD a 0#16 := by
  induction v generalizing mem pos with
  | nil => rfl
  | cons x xs ih =>
    have hfirst : pos % cap ≠ a := (h 0 (Nat.succ_pos _)).symm
    have hrest : ∀ j, j < xs.length → a ≠ (pos + 1 + j) % cap := fun j hj => by
      simpa [Nat.add_assoc, Nat.add_comm 1] using h (j + 1) (Nat.succ_lt_succ hj)
    rw [ringStore, ih hrest]
    simp [List.getD_eq_getElem?_getD, List.getElem?_set_ne hfirst]

theorem ringStore_getD {cap : Nat} {v mem : List Sample} {pos j : Nat} (hlen : mem.length = cap)
    (hfit : v.length ≤ cap) (hj : j < v.length) :
    (ringStore cap mem pos v).getD ((pos + j) % cap) 0#16 = v.getD j 0#16 := by
  induction v generalizing mem pos j with
  | nil => cases hj
  | cons x xs ih =>
    simp only [List.length_cons] at hfit hj
    have hpos : pos % cap < mem.length := by
      rw [hlen]
      exact Nat.mod_lt _ (by omega)
    rw [ringStore]
    cases j with
    | zero =>
      have hne : ∀ i, i < xs.length → (pos + 0) % cap ≠ (pos + 1 + i) % cap := fun i hi => by
        rw [Nat.add_assoc]
        exact ringIndex_ne (by omega) (by omega) (by omega)
      rw [ringStore_getD_of_ne hne]
      simp [hpos]
    | succ j =>
      have hrest := ih (mem := mem.set (pos % cap) x) (pos := pos + 1) (j := j) (by simpa using hlen) (by omega)
        (by omega)
      rw [show pos + (j + 1) = pos + 1 + j by omega, hrest]
      rfl

/-- An accepted APPEND (rules R101 and R111). -/
theorem ringAppend_of_fits {cap : Nat} {b : Ring} {v : List Sample} (hfit : b.occ + v.length ≤ cap) :
    ringAppend cap b v = (true, { b with mem := ringStore cap b.mem (b.head + b.occ) v, occ := b.occ + v.length }) := by
  obtain ⟨hfull, -⟩ | ⟨-, e⟩ := ringAppend_cases cap b v
  · omega
  · exact e

/-- Settles O11: the storage after an accepted APPEND, cell by cell. -/
theorem appendStoresItsCells : Obligations.AppendStoresItsCells := by
  intro cap b v hwf hfit
  obtain ⟨hlen, -, -⟩ := ringWf_iff.mp hwf
  rw [ringAppend_of_fits hfit]
  exact ⟨rfl, rfl, fun j hj => ringStore_getD hlen (by omega) hj, fun a ha => ringStore_getD_of_ne ha⟩

/-! ### The operations on sequences (rules R101 to R113) -/

/-- The samples held keep their cells, and the new ones stand behind them. -/
theorem ringContents_ringAppend {cap : Nat} {b : Ring} {v : List Sample} (hwf : ringWf cap b = true)
    (hfit : b.occ + v.length ≤ cap) : ringContents cap (ringAppend cap b v).2 = ringContents cap b ++ v := by
  obtain ⟨hhead, hocc, hnew, hold⟩ := appendStoresItsCells cap b v hwf hfit
  have hheld : ∀ k, k < b.occ → ringCell cap (ringAppend cap b v).2 k = ringCell cap b k := fun k hk => by
    rw [ringCell, ringCell, hhead]
    refine hold _ fun j hj => ?_
    rw [Nat.add_assoc]
    exact ringIndex_ne (by omega) (by omega) (by omega)
  have hadded : ∀ j, j < v.length → ringCell cap (ringAppend cap b v).2 (b.occ + j) = v.getD j 0#16 := fun j hj => by
    rw [ringCell, hhead, ← Nat.add_assoc]
    exact hnew j hj
  refine List.ext_getElem (by simp [hocc]) fun k hk _ => ?_
  rw [ringContents_length, hocc] at hk
  by_cases hlt : k < b.occ
  · rw [List.getElem_append_left (by simpa using hlt)]
    simpa [ringContents] using hheld k hlt
  · have hj : k - b.occ < v.length := by omega
    rw [List.getElem_append_right (by simpa using hlt)]
    have hcell := hadded (k - b.occ) hj
    rw [Nat.add_sub_cancel' (by omega), List.getD_eq_getElem _ _ hj] at hcell
    simpa [ringContents] using hcell

/-- FRONT reads the oldest samples of the sequence (rules R107 and R112). -/
theorem ringFront_eq_take {cap : Nat} {b : Ring} {n : Nat} (hn : n ≤ b.occ) :
    ringFront cap b n = (ringContents cap b).take n := by
  rw [ringFront, ringContents, ← List.map_take, List.take_range, Nat.min_eq_left hn]

/-- Moving the head by `n` renames the cell at offset `n + k` to offset `k`. -/
theorem ringCell_ringSkip (cap : Nat) (b : Ring) (n k : Nat) :
    ringCell cap (ringSkip cap b n) k = ringCell cap b (n + k) := by
  simp only [ringCell, ringSkip, Nat.mod_add_mod, Nat.add_assoc]

theorem ringContents_ringSkip (cap : Nat) (b : Ring) (n : Nat) :
    ringContents cap (ringSkip cap b n) = (ringContents cap b).drop n := by
  refine List.ext_getElem (by simp [ringSkip]) fun k _ _ => ?_
  simpa [ringContents] using ringCell_ringSkip cap b n k

/-- Settles O10: the two cases of APPEND. -/
theorem appendOnSequences : Obligations.AppendOnSequences := by
  refine fun cap b v hwf => ⟨fun hfull => if_pos hfull, fun hfit => ⟨?_, ringContents_ringAppend hwf hfit,
    ringAppend_wf v hwf⟩⟩
  rw [ringAppend_of_fits hfit]

/-- Settles O12: the two cases of CONSUME_FRONT, the second the head's move. -/
theorem consumeOnSequences : Obligations.ConsumeOnSequences := by
  refine fun cap b n hwf => ⟨fun hover => if_pos hover, fun hn => ⟨ringSkip cap b n, if_neg (by omega),
    ringContents_ringSkip cap b n, rfl, rfl, rfl, ringSkip_wf hn hwf⟩⟩

/-- Settles O13: the two cases of DRAIN, the second FRONT and the head's move. -/
theorem drainOnSequences : Obligations.DrainOnSequences := by
  refine fun cap b n hwf => ⟨fun hshort => if_neg (by omega), fun hn => ⟨ringFront cap b n, ringSkip cap b n,
    if_pos hn, ringFront_eq_take hn, ringContents_ringSkip cap b n, ringSkip_wf hn hwf⟩⟩

/-- Settles O39: the two cases of the drain phase, with the chunk read from the sequence. -/
theorem drainAnswersPush : Obligations.DrainAnswersPush := by
  intro p s hp hin hout
  have hexec : exec (.push p) s = .next (pushDrain s) := by simp only [exec, execPush, hp]
  rw [hexec]
  obtain ⟨hlt, e⟩ | ⟨hle, e⟩ := pushDrain_cases hin hout <;> rw [e]
  · exact ⟨fun _ => rfl, fun hle => by omega⟩
  · refine ⟨fun hlt => by omega, fun _ => ⟨_, rfl, ?_, ringContents_ringSkip _ _ _⟩⟩
    rw [ringFront_eq_take hle]
    rfl

/-! ### Who writes the buffers (rules R108 and R109) -/

/-- The two sample buffers. -/
def buffers (s : State) : Ring × Ring := (s.inBuf, s.outBuf)

theorem buffers_eq_iff {s t : State} : buffers t = buffers s ↔ t.inBuf = s.inBuf ∧ t.outBuf = s.outBuf := by
  simp only [buffers, Prod.mk.injEq]

theorem createCheck_buffers (s : State) : buffers (createCheck s) = buffers s := by
  obtain ⟨_, e⟩ | ⟨k, _, e⟩ := createCheck_cases s <;> rw [e] <;> rfl

theorem pushAccept_buffers (s : State) : buffers (pushAccept s) = buffers s := by
  obtain ⟨_, e⟩ | ⟨_, _, e⟩ | ⟨_, _, e⟩ := pushAccept_cases s <;> rw [e] <;> rfl

theorem pushLoopTest_buffers (s : State) : buffers (pushLoopTest s) = buffers s := by
  obtain ⟨_, e⟩ | ⟨_, e⟩ := pushLoopTest_cases s <;> rw [e] <;> rfl

theorem demodInitAnswer_buffers (ok : Bool) (s : State) : buffers (demodInitAnswer ok s) = buffers s := by
  cases ok <;> rfl

theorem decInitAnswer_buffers (ok : Bool) (s : State) : buffers (decInitAnswer ok s) = buffers s := by
  cases ok <;> rfl

theorem decDecodeIssue_buffers (bytes : List Byte) (s : State) : buffers (decDecodeIssue bytes s) = buffers s := by
  unfold decDecodeIssue
  split <;> rfl

@[simp] theorem pushAppend_outBuf (p : List Sample) (s : State) : (pushAppend p s).outBuf = s.outBuf := by
  unfold pushAppend afterBufferOp
  split <;> rfl

@[simp] theorem pushConsume_outBuf (d : DemodRsp) (s : State) : (pushConsume d s).outBuf = s.outBuf := by
  obtain ⟨_, e⟩ | ⟨_, ⟨_, e⟩ | ⟨_, e⟩ | ⟨_, e⟩⟩ := pushConsume_cases d s <;> rw [e] <;> rfl

@[simp] theorem stepUnsynced_inBuf (d : DemodRsp) (s : State) : (stepUnsynced d s).inBuf = s.inBuf := by
  unfold stepUnsynced
  split
  · dsimp only
    split <;> rfl
  · rfl

theorem stepWaitFirst_buffers (d : DemodRsp) (s : State) : buffers (stepWaitFirst d s) = buffers s := by
  obtain ⟨_, e⟩ | ⟨_, _, e⟩ | ⟨_, _, e⟩ := stepWaitFirst_cases d s <;> rw [e] <;> rfl

theorem stepWaitSecond_buffers (d : DemodRsp) (s : State) : buffers (stepWaitSecond d s) = buffers s := by
  obtain ⟨_, e⟩ | ⟨_, _, e⟩ | ⟨_, _, e⟩ := stepWaitSecond_cases d s <;> rw [e] <;> rfl

/-- Outside UNSYNCED the state machine step itself writes no buffer (rules R136 to R141). -/
theorem fsmStep_buffers_of_synced (d : DemodRsp) {s : State} (hf : s.fsm ≠ .unsynced) :
    buffers (fsmStep d s) = buffers s := by
  unfold fsmStep
  split
  · exact absurd ‹_› hf
  · exact stepWaitFirst_buffers d s
  · exact stepWaitSecond_buffers d s

@[simp] theorem fsmStep_inBuf (d : DemodRsp) (s : State) : (fsmStep d s).inBuf = s.inBuf := by
  by_cases hf : s.fsm = .unsynced
  · simp [fsmStep, hf]
  · exact (buffers_eq_iff.mp (fsmStep_buffers_of_synced d hf)).1

@[simp] theorem pushDrain_inBuf (s : State) : (pushDrain s).inBuf = s.inBuf := by
  unfold pushDrain
  split
  · dsimp only
    split <;> rfl
  · split <;> rfl

@[simp] theorem finishFrame_inBuf (audio : Option (List Sample)) (d : DemodRsp) (s : State) :
    (finishFrame audio d s).inBuf = s.inBuf := by
  unfold finishFrame
  split
  · rfl
  · split
    · dsimp only
      split <;> rfl
    · rfl

/-- What a move from `s` can do to the buffers: nothing, or what the phase it stands in allows (rule R108). -/
inductive BufferEvent (s t : State) : Prop
  | kept : buffers t = buffers s → BufferEvent s t
  | cleared : s.phase = .cReset → BufferEvent s t
  | input : s.phase = .pAppend ∨ (∃ d, s.phase = .pConsume d) → t.outBuf = s.outBuf → BufferEvent s t
  | output : s.phase = .pDrain ∨ (∃ d, s.phase = .pFsm d ∧ s.fsm = .unsynced) ∨ (∃ d, s.phase = .pDecodeWait d) →
      t.inBuf = s.inBuf → BufferEvent s t

theorem fsmStep_bufferEvent {d : DemodRsp} {s : State} (hp : s.phase = .pFsm d) : BufferEvent s (fsmStep d s) := by
  by_cases hf : s.fsm = .unsynced
  · exact .output (.inr (.inl ⟨d, hp, hf⟩)) (fsmStep_inBuf d s)
  · exact .kept (fsmStep_buffers_of_synced d hf)

/-- Every move of either agent is one of these events. -/
theorem Moves.bufferEvent {s t : State} (hm : Moves s t) : BufferEvent s t := by
  cases hm with
  | reset hp _ => exact .cleared hp
  | check _ _ => exact .kept (createCheck_buffers s)
  | accept p _ _ => exact .kept (pushAccept_buffers s)
  | append p hp _ => exact .input (.inl hp) (pushAppend_outBuf p s)
  | loopTest p _ _ => exact .kept (pushLoopTest_buffers s)
  | consume p d hp _ => exact .input (.inr ⟨d, hp⟩) (pushConsume_outBuf d s)
  | fsm p d hp _ => exact fsmStep_bufferEvent hp
  | drain p hp _ => exact .output (.inl hp) (pushDrain_inBuf s)
  | issueDecDecode d _ _ => exact .kept (decDecodeIssue_buffers _ s)
  | demodInit y rest ok _ _ _ _ => exact .kept (demodInitAnswer_buffers ok _)
  | decInit y rest ok _ _ _ _ => exact .kept (decInitAnswer_buffers ok _)
  | decDecode y rest audio d hp _ _ _ => exact .output (.inr (.inr ⟨d, hp⟩)) (finishFrame_inBuf audio d _)
  | _ => exact .kept rfl

/-- A step is one event: the schedule is no part of what an event speaks of. -/
theorem step_bufferEvent {s t : State} (h : step s = .next t) : BufferEvent s t := by
  obtain ⟨u, rfl | ⟨sched, rfl⟩, hm⟩ := step_moves h
  · exact hm.bufferEvent
  · cases hm.bufferEvent with
    | kept e => exact .kept e
    | cleared hp => exact .cleared hp
    | input hp e => exact .input hp e
    | output hp e => exact .output hp e

/-- Settles O56: each event changes only the buffer its phase allows. -/
theorem bufferWriters : Obligations.BufferWriters := by
  intro s t hstep
  cases step_bufferEvent hstep with
  | kept e =>
    obtain ⟨hin, hout⟩ := buffers_eq_iff.mp e
    exact ⟨fun hne => absurd hin hne, fun hne => absurd hout hne⟩
  | cleared hp => exact ⟨fun _ => .inl hp, fun _ => .inl hp⟩
  | input hp e => exact ⟨fun _ => .inr hp, fun hne => absurd e hne⟩
  | output hp e => exact ⟨fun hne => absurd e hne, fun _ => .inr hp⟩

end Sys2Proof.Machine
end

section
/-! PROOF. PUSH phase by phase does what its pseudocode does on sequences (rules R210 to R216). `Advances k s t` says
that the block runs from `s` to `t` within `k` steps and leaves alone what a PUSH in a READY session leaves alone. Each
part of the pseudocode (the state machine step, the iteration, the cadence loop) is matched by such a run between two
states that stand for the session before it and after it, and the runs are chained in the pseudocode's order. -/

namespace Sys2Proof.Machine

/-! ### Runs inside a PUSH -/

/-- What a PUSH in a READY session leaves as it is until its response is delivered. -/
def surroundings (s : State) : Config × Sess × List Packet × List Response × List Word × List Agent :=
  (s.cfg, s.sess, s.cmdIn, s.hostOut, s.statusIn, s.schedule)

theorem surroundings_eq_iff {s t : State} : surroundings t = surroundings s ↔
    t.cfg = s.cfg ∧ t.sess = s.sess ∧ t.cmdIn = s.cmdIn ∧ t.hostOut = s.hostOut ∧ t.statusIn = s.statusIn ∧
      t.schedule = s.schedule := by
  simp only [surroundings, Prod.mk.injEq]

/-- A machine's runs compose. -/
theorem run_add {M : Host.Core} {m n : Nat} {s u t : M.State} (h : M.run m s = .next u) (h' : M.run n u = .next t) :
    M.run (m + n) s = .next t := by
  induction m generalizing s with
  | zero =>
    cases h
    simpa using h'
  | succ m ih =>
    obtain ⟨v, hv, hrun⟩ := run_succ_eq_next.mp h
    rw [Nat.add_right_comm]
    exact run_succ_eq_next.mpr ⟨v, hv, ih hrun⟩

/-- The block runs from `s` to `t` within `k` steps, and the surroundings of the PUSH stay. -/
def Advances (k : Nat) (s t : State) : Prop :=
  (∃ n ≤ k, Host.Core.run Sys2Proof.core n s = .next t) ∧ surroundings t = surroundings s

theorem Advances.trans {j k : Nat} {s u t : State} (h : Advances j s u) (h' : Advances k u t) :
    Advances (j + k) s t := by
  obtain ⟨⟨m, hm, hrun⟩, hs⟩ := h
  obtain ⟨⟨n, hn, hrun'⟩, hs'⟩ := h'
  exact ⟨⟨m + n, Nat.add_le_add hm hn, run_add hrun hrun'⟩, hs'.trans hs⟩

theorem Advances.mono {j k : Nat} {s t : State} (h : Advances j s t) (hjk : j ≤ k) : Advances k s t := by
  obtain ⟨⟨n, hn, hrun⟩, hs⟩ := h
  exact ⟨⟨n, hn.trans hjk, hrun⟩, hs⟩

theorem Advances.cfg_eq {k : Nat} {s t : State} (h : Advances k s t) : t.cfg = s.cfg := by
  obtain ⟨-, hs⟩ := h
  obtain ⟨hcfg, -⟩ := surroundings_eq_iff.mp hs
  exact hcfg

theorem advances_of_step {s t : State} (h : step s = .next t) (hs : surroundings t = surroundings s) :
    Advances 1 s t :=
  ⟨⟨1, Nat.le_refl 1, run_succ_eq_next.mpr ⟨t, h, rfl⟩⟩, hs⟩

/-- A PUSH of `p` is at the port of a block that meets the invariant, and the sequencer runs alone. -/
structure InPush (p : List Sample) (s : State) : Prop where
  inv : Inv s
  command : PushAt p s
  quiet : s.statusIn = [] ∧ s.schedule = []

theorem InPush.of_advances {p : List Sample} {k : Nat} {s t : State} (h : InPush p s) (ha : Advances k s t) :
    InPush p t := by
  obtain ⟨⟨n, -, hrun⟩, hs⟩ := ha
  obtain ⟨hcfg, -, hcmd, -, hstatus, hsched⟩ := surroundings_eq_iff.mp hs
  exact
    { inv := run_inv h.inv hrun
      command := by simpa only [PushAt, hcfg, hcmd] using h.command
      quiet := by simpa only [hstatus, hsched] using h.quiet }

/-- In a phase without an adapter request a step is PUSH's own arm (rule R210). -/
theorem InPush.advances_exec {p : List Sample} {s t : State} (h : InPush p s) (ha : adapterInstr s = none)
    (he : execPush p s = .next t) (hs : surroundings t = surroundings s) : Advances 1 s t := by
  obtain ⟨hstatus, hsched⟩ := h.quiet
  obtain ⟨m, rest, hm, hi⟩ := h.command
  refine advances_of_step ?_ hs
  rw [step_of_quiet hsched hstatus, sequencerStep_eq_command ha hm hi]
  exact he

/-- In a phase with an adapter request a step is that request (rule R60). -/
theorem InPush.advances_adapter {p : List Sample} {s t : State} {i : Instr} (h : InPush p s)
    (hi : adapterInstr s = some i) (he : exec i s = .next t) (hs : surroundings t = surroundings s) :
    Advances 1 s t := by
  obtain ⟨hstatus, hsched⟩ := h.quiet
  refine advances_of_step ?_ hs
  rw [step_of_quiet hsched hstatus, sequencerStep_eq_adapter hi]
  exact he

/-- The block stands in phase `q`, for the session `a`, with these answers of the adapters not yet taken. -/
structure StandsFor (q : Phase) (a : Session) (demod dec : List Reply) (t : State) : Prop where
  phase : t.phase = q
  session : sessionOf t = a
  demodIn : t.demodIn = demod
  decIn : t.decIn = dec

/-- Within `k` steps the block reaches a state that stands for the session `a` in phase `q`. -/
def Arrives (k : Nat) (s : State) (q : Phase) (a : Session) (demod dec : List Reply) : Prop :=
  ∃ t, Advances k s t ∧ StandsFor q a demod dec t

theorem Advances.arrives {j k : Nat} {s u : State} {q : Phase} {a : Session} {demod dec : List Reply}
    (h : Advances j s u) (h' : Arrives k u q a demod dec) : Arrives (j + k) s q a demod dec := by
  obtain ⟨t, ht, hst⟩ := h'
  exact ⟨t, h.trans ht, hst⟩

/-! ### The session after each operation on the output buffer (rules R132, R133, R148 and R149) -/

/-- A block that fits is poured out whole. -/
theorem sessionOf_appendOut {s : State} {v : List Sample} (drop : Event) (ho : ringWf s.cfg.outCap s.outBuf = true)
    (hfit : s.outBuf.occ + v.length ≤ s.cfg.outCap) :
    sessionOf { s with outBuf := (ringAppend s.cfg.outCap s.outBuf v).2 } =
      pourOut s.cfg v drop (sessionOf s) := by
  have hlen : (sessionOf s).output.length + v.length ≤ s.cfg.outCap := by simpa [sessionOf] using hfit
  rw [pourOut, if_pos hlen]
  simp only [sessionOf, ringContents_ringAppend ho hfit]

/-- A block that does not fit only raises its flag. -/
theorem sessionOf_drop {s : State} {v : List Sample} (drop : Event)
    (hfull : s.cfg.outCap < s.outBuf.occ + v.length) :
    sessionOf (setEvent drop s) = pourOut s.cfg v drop (sessionOf s) := by
  have hlen : ¬ (sessionOf s).output.length + v.length ≤ s.cfg.outCap := by simpa [sessionOf] using hfull
  rw [pourOut, if_neg hlen]
  rfl

theorem sessionOf_fsmTo (f : Fsm) (d : DemodRsp) (s : State) :
    sessionOf (fsmTo f d s) = { sessionOf s with fsm := f } := rfl

@[simp] theorem zeros_length (n : Nat) : (zeros n).length = n := List.length_replicate

/-- STEP_UNSYNCED on the session: the silence block and the lock test. -/
theorem stepUnsynced_standsFor (d : DemodRsp) {s : State} (hi : ringWf s.cfg.inCap s.inBuf = true)
    (ho : ringWf s.cfg.outCap s.outBuf = true) :
    surroundings (stepUnsynced d s) = surroundings s ∧
    StandsFor (.pPublish d)
      { pourOut s.cfg (zeros s.cfg.nNom) .silDrop (sessionOf s) with fsm := unsyncedNext s.cfg d }
      s.demodIn s.decIn (stepUnsynced d s) := by
  obtain ⟨hfit, e⟩ | ⟨hfull, e⟩ := stepUnsynced_cases d hi ho <;> rw [e]
  · refine ⟨rfl, rfl, ?_, rfl, rfl⟩
    rw [sessionOf_fsmTo, sessionOf_appendOut .silDrop ho (by simpa using hfit)]
  · refine ⟨rfl, rfl, ?_, rfl, rfl⟩
    rw [sessionOf_fsmTo, sessionOf_drop (v := zeros s.cfg.nNom) .silDrop (by simpa using hfull)]

/-- What COMPLETE_FRAME does with the decoder's answer (rules R148 and R149). -/
def pourFrame (c : Config) (audio : Option (List Sample)) (a : Session) : Session :=
  match audio with
  | none => { a with flags := a.flags ||| eventBit .decodeFail }
  | some v => pourOut c v .frameDrop a

/-- COMPLETE_FRAME is its two requests and then the decoder's answer. -/
theorem completeFrame_eq (c : Config) (repaired : List Bool) (audio : Option (List Sample)) (a : Session) :
    completeFrame c repaired audio a = pourFrame c audio (ask (.decDecode (pack c.nbytes repaired))
      { ask (.decRepair a.pend) a with pend := repaired, dec := satInc a.dec }) := by
  cases audio <;> rfl

/-- The end of COMPLETE_FRAME and of STEP_WAIT_SECOND on the session. -/
theorem finishFrame_standsFor {audio : Option (List Sample)} (d : DemodRsp) {s : State}
    (hi : ringWf s.cfg.inCap s.inBuf = true) (ho : ringWf s.cfg.outCap s.outBuf = true)
    (hlen : ∀ v, audio = some v → v.length = s.cfg.frameOut) :
    surroundings (finishFrame audio d s) = surroundings s ∧
    StandsFor (.pPublish d) { pourFrame s.cfg audio (sessionOf s) with fsm := .waitFirstHalf }
      s.demodIn s.decIn (finishFrame audio d s) := by
  obtain ⟨rfl, e⟩ | ⟨v, rfl, hfit, e⟩ | ⟨v, rfl, hfull, e⟩ := finishFrame_cases audio d hi ho <;> rw [e]
  · exact ⟨rfl, rfl, rfl, rfl, rfl⟩
  · refine ⟨rfl, rfl, ?_, rfl, rfl⟩
    rw [sessionOf_fsmTo, sessionOf_appendOut .frameDrop ho (by rwa [hlen v rfl])]
    rfl
  · refine ⟨rfl, rfl, ?_, rfl, rfl⟩
    rw [sessionOf_fsmTo, sessionOf_drop (v := v) .frameDrop (by rwa [hlen v rfl])]
    rfl

/-! ### COMPLETE_FRAME (rules R145 to R149) -/

theorem exec_decDecode_issue {s : State} (bytes : List Byte) (ha : s.awaiting = false) (hc : packFits s.cfg = true) :
    exec (.decDecode bytes) s = .next (issue (.decDecode bytes) { s with decCnt := satInc s.decCnt }) := by
  simp [exec, execDecDecode, ha, decDecodeIssue, hc]

theorem exec_decDecode_answer {s : State} {y : Reply} {rest : List Reply} {audio : Option (List Sample)} {d : DemodRsp}
    (bytes : List Byte) (hp : s.phase = .pDecodeWait d) (ha : s.awaiting = true) (hy : s.decIn = y :: rest)
    (hv : parseDecode s.cfg y = some audio) :
    exec (.decDecode bytes) s = .next (finishFrame audio d (takeDec rest s)) := by
  simp [exec, execDecDecode, ha, hy, hv, decDecodeAnswer, frameRsp, hp]

/-- DEC_REPAIR: its request goes out, and the repaired bits replace `PEND` (rule R146). -/
theorem InPush.advances_repair {p : List Sample} {s : State} {d : DemodRsp} {y : Reply} {rest : List Reply}
    {repaired : List Bool} (h : InPush p s) (hp : s.phase = .pRepairWait d) (ha : s.awaiting = false)
    (hy : s.decIn = y :: rest) (hr : parseRepair s.cfg y = some repaired) :
    Advances 2 s { takeDec rest (issue (.decRepair s.pend) s) with pend := repaired, phase := .pDecodeWait d } := by
  have hissue : Advances 1 s (issue (.decRepair s.pend) s) :=
    h.advances_adapter (by rw [adapterInstr, hp]) (exec_decRepair_issue s.pend ha) rfl
  have hexec : exec (.decRepair s.pend) (issue (.decRepair s.pend) s) =
      .next { takeDec rest (issue (.decRepair s.pend) s) with pend := repaired, phase := .pDecodeWait d } := by
    rw [exec_decRepair_answer (s := issue (.decRepair s.pend) s) s.pend rfl hy hr,
      decRepairAnswer_of_phase (s := takeDec rest (issue (.decRepair s.pend) s)) repaired hp]
  exact hissue.trans ((h.of_advances hissue).advances_adapter (by simp [adapterInstr, hp]) hexec rfl)

/-- DEC_DECODE: the packed frame goes out and is counted, and the decoder's answer ends the step (rules R147 to R149). -/
theorem InPush.arrives_decode {p : List Sample} {s : State} {d : DemodRsp} {y : Reply} {rest : List Reply}
    {audio : Option (List Sample)} (h : InPush p s) (hp : s.phase = .pDecodeWait d) (ha : s.awaiting = false)
    (hy : s.decIn = y :: rest) (hv : parseDecode s.cfg y = some audio) :
    Arrives 2 s (.pPublish d)
      { pourFrame s.cfg audio (ask (.decDecode (pack s.cfg.nbytes s.pend))
          { sessionOf s with dec := satInc s.decCnt }) with fsm := .waitFirstHalf }
      s.demodIn rest := by
  obtain ⟨hready, -, -⟩ : s.sess = .ready ∧ rspWf s.cfg d = true ∧ s.fsm = .waitSecondHalf := h.inv.phaseOk_at hp
  have hpack := configOk_packFits (h.inv.readyConfig hready)
  have hissue : Advances 1 s
      (issue (.decDecode (pack s.cfg.nbytes s.pend)) { s with decCnt := satInc s.decCnt }) :=
    h.advances_adapter (by rw [adapterInstr, hp]) (exec_decDecode_issue _ ha hpack) rfl
  obtain ⟨hsur, hst⟩ := finishFrame_standsFor (audio := audio) d
    (s := takeDec rest (issue (.decDecode (pack s.cfg.nbytes s.pend)) { s with decCnt := satInc s.decCnt }))
    h.inv.inWf h.inv.outWf (fun v e => parseDecode_length (e ▸ hv))
  refine ⟨_, hissue.trans ((h.of_advances hissue).advances_adapter (i := .decDecode (pack s.cfg.nbytes s.pend)) ?_
    (exec_decDecode_answer _ hp rfl hy hv) hsur), hst⟩
  simp [adapterInstr, hp]

/-- COMPLETE_FRAME: the two decoder calls in their order. -/
theorem InPush.arrives_completeFrame {p : List Sample} {s : State} {d : DemodRsp} {y1 y2 : Reply} {rest : List Reply}
    {repaired : List Bool} {audio : Option (List Sample)} (h : InPush p s) (hp : s.phase = .pRepairWait d)
    (ha : s.awaiting = false) (hy : s.decIn = y1 :: y2 :: rest) (hr : parseRepair s.cfg y1 = some repaired)
    (hv : parseDecode s.cfg y2 = some audio) :
    Arrives 4 s (.pPublish d)
      { completeFrame s.cfg repaired audio (sessionOf s) with fsm := .waitFirstHalf } s.demodIn rest := by
  rw [completeFrame_eq]
  have hrepair := h.advances_repair hp ha hy hr
  exact hrepair.arrives ((h.of_advances hrepair).arrives_decode rfl rfl rfl hv)

/-! ### FSM_STEP (rules R131 to R141) -/

/-- The pseudocode's step in WAIT_SECOND_HALF with both halves at hand takes two answers of the decoder. -/
theorem fsmPass_complete {c : Config} {d : DemodRsp} {a a' : Session} {dec dec' : List Reply}
    (hf : a.fsm = .waitSecondHalf) (hl : d.lock = true) (hs : d.sync = true)
    (h : fsmPass c d a dec = some (a', dec')) :
    ∃ y1 y2 repaired audio, dec = y1 :: y2 :: dec' ∧ parseRepair c y1 = some repaired ∧
      parseDecode c y2 = some audio ∧
      a' = { completeFrame c repaired audio { a with pend := captureSecond c d.bits a.pend } with
              fsm := .waitFirstHalf } := by
  simp only [fsmPass, hf, hl, hs] at h
  match dec, h with
  | y1 :: y2 :: rest, h =>
    simp only [Bool.true_eq_false, if_false] at h
    split at h
    · cases h
      exact ⟨y1, y2, _, _, rfl, ‹_›, ‹_›, by simp [captureSecond, hf]⟩
    · cases h
  | [_], h => simp at h
  | [], h => simp at h

/-- From P_FSM the state machine step reaches the publication as FSM_STEP says. -/
theorem InPush.arrives_fsmPass {p : List Sample} {s : State} {d : DemodRsp} {a : Session} {dec : List Reply}
    (h : InPush p s) (hp : s.phase = .pFsm d) (hpass : fsmPass s.cfg d (sessionOf s) s.decIn = some (a, dec)) :
    Arrives 5 s (.pPublish d) a s.demodIn dec := by
  obtain ⟨ha, -, -⟩ : s.awaiting = false ∧ s.sess = .ready ∧ rspWf s.cfg d = true := h.inv.phaseOk_at hp
  have hadapter : adapterInstr s = none := by rw [adapterInstr, hp]
  have hexec : execPush p s = .next (fsmStep d s) := by rw [execPush, hp]
  have hfsm : (sessionOf s).fsm = s.fsm := rfl
  -- A state machine step that asks the decoder for nothing stands at the publication after one step.
  have hplain : ∀ {t}, fsmStep d s = t → surroundings t = surroundings s → StandsFor (.pPublish d) a s.demodIn dec t →
      Arrives 5 s (.pPublish d) a s.demodIn dec := fun {t} e hsur hst =>
    ⟨t, (h.advances_exec hadapter (hexec.trans (congrArg _ e)) hsur).mono (by decide), hst⟩
  cases hf : s.fsm with
  | unsynced =>
    simp only [fsmPass, hfsm, hf, Option.some.injEq, Prod.mk.injEq] at hpass
    obtain ⟨rfl, rfl⟩ := hpass
    obtain ⟨hsur, hst⟩ := stepUnsynced_standsFor d h.inv.inWf h.inv.outWf
    exact hplain (by rw [fsmStep, hf]) hsur hst
  | waitFirstHalf =>
    have hstep : fsmStep d s = stepWaitFirst d s := by rw [fsmStep, hf]
    obtain ⟨hl, e⟩ | ⟨hl, hs, e⟩ | ⟨hl, hs, e⟩ := stepWaitFirst_cases d s
    · simp only [fsmPass, hfsm, hf, hl] at hpass
      cases hpass
      exact hplain (hstep.trans e) rfl ⟨rfl, rfl, rfl, rfl⟩
    · simp only [fsmPass, hfsm, hf, hl, hs] at hpass
      cases hpass
      exact hplain (hstep.trans e) rfl ⟨rfl, rfl, rfl, rfl⟩
    · simp only [fsmPass, hfsm, hf, hl, hs] at hpass
      cases hpass
      exact hplain (hstep.trans e) rfl ⟨rfl, by rw [sessionOf_fsmTo, ← hf]; rfl, rfl, rfl⟩
  | waitSecondHalf =>
    have hstep : fsmStep d s = stepWaitSecond d s := by rw [fsmStep, hf]
    obtain ⟨hl, e⟩ | ⟨hl, hs, e⟩ | ⟨hl, hs, e⟩ := stepWaitSecond_cases d s
    · simp only [fsmPass, hfsm, hf, hl] at hpass
      cases hpass
      exact hplain (hstep.trans e) rfl ⟨rfl, rfl, rfl, rfl⟩
    · simp only [fsmPass, hfsm, hf, hl, hs] at hpass
      cases hpass
      exact hplain (hstep.trans e) rfl ⟨rfl, rfl, rfl, rfl⟩
    · obtain ⟨y1, y2, repaired, audio, hdec, hr, hv, rfl⟩ := fsmPass_complete hf hl hs hpass
      have hcapture := h.advances_exec hadapter (hexec.trans (congrArg _ (hstep.trans e))) rfl
      exact hcapture.arrives ((h.of_advances hcapture).arrives_completeFrame rfl ha hdec hr hv)

/-! ### ITERATION (rules R172 to R178) -/

/-- The session after an iteration's DemodCall, its `r` samples consumed (rules R172 and R173). -/
def consumed (a : Session) : Session :=
  { ask (.demodReq (BitVec.ofNat 16 a.r) (a.input.take a.r)) a with
    iter := satInc a.iter, input := a.input.drop a.r }

/-- Everything the pseudocode's iteration can do. -/
theorem iterationPass_cases {c : Config} {d : DemodRsp} {a a' : Session} {dec dec' : List Reply}
    (h : iterationPass c d a dec = some (a', dec')) :
    (responseValid c d = true ∧ ∃ a2, fsmPass c d { consumed a with r := d.nextR.toNat } dec = some (a2, dec') ∧
      a' = { a2 with snap := publishedSnapshot d a2.fsm a2.snap }) ∨
    (responseValid c d = false ∧ dec' = dec ∧
      a' = { consumed a with flags := (consumed a).flags ||| eventBit .demodFail }) := by
  simp only [iterationPass] at h
  split at h
  · split at h
    · cases h
      exact .inl ⟨‹_›, _, ‹_›, rfl⟩
    · cases h
  · rename_i hv
    cases h
    exact .inr ⟨by simpa using hv, rfl, rfl⟩

/-- From the loop test to the consume phase: the request with the oldest samples goes out and the answer is taken. -/
theorem InPush.advances_demodCall {p : List Sample} {s : State} {d : DemodRsp} {y : Reply} {rest : List Reply}
    (h : InPush p s) (hp : s.phase = .pLoopTest) (hle : s.r ≤ s.inBuf.occ) (hy : s.demodIn = y :: rest)
    (hd : parseDemod s.cfg y = some d) :
    Advances 3 s (demodReqAnswer d (takeDemod rest
      (issue (.demodReq (BitVec.ofNat 16 s.r) ((sessionOf s).input.take s.r)) s))) := by
  obtain ⟨ha, -⟩ : s.awaiting = false ∧ s.sess = .ready := h.inv.phaseOk_at hp
  obtain ⟨-, e⟩ | ⟨hlt, -⟩ := pushLoopTest_cases s
  · have htest : Advances 1 s { s with phase := .pDemodWait } :=
      h.advances_exec (by rw [adapterInstr, hp]) (by rw [execPush, hp, e]) rfl
    have hreq : ringFront s.cfg.inCap s.inBuf s.r = (sessionOf s).input.take s.r := ringFront_eq_take hle
    have hissue : Advances 2 s { issue (.demodReq (BitVec.ofNat 16 s.r) ((sessionOf s).input.take s.r)) s with
        phase := .pDemodWait } :=
      htest.trans ((h.of_advances htest).advances_adapter (by rw [← hreq]; rfl) (exec_demodReq_issue _ _ ha) rfl)
    exact hissue.trans ((h.of_advances hissue).advances_adapter rfl
      (exec_demodReq_answer (s := { issue _ s with phase := .pDemodWait }) _ _ rfl hy hd) rfl)
  · omega

/-- The consume phase, with the `r` samples held: both outcomes (rules R174 to R177). -/
theorem pushConsume_of_le {s : State} (d : DemodRsp) (hi : ringWf s.cfg.inCap s.inBuf = true)
    (ho : ringWf s.cfg.outCap s.outBuf = true) (hle : s.r ≤ s.inBuf.occ) :
    (responseValid s.cfg d = true ∧ pushConsume d s =
        { s with inBuf := ringSkip s.cfg.inCap s.inBuf s.r, r := d.nextR.toNat, phase := .pFsm d }) ∨
    (responseValid s.cfg d = false ∧ pushConsume d s =
        setEvent .demodFail { s with inBuf := ringSkip s.cfg.inCap s.inBuf s.r, phase := .pLoopTest }) := by
  have hocc : occupancyOk { s with inBuf := ringSkip s.cfg.inCap s.inBuf s.r } = true :=
    occupancyOk_of_wf (ringSkip_wf hle hi) ho
  obtain ⟨hlt, -⟩ | ⟨-, ⟨hover, -⟩ | hvalid | hinvalid⟩ := pushConsume_cases d s
  · omega
  · rw [hocc] at hover
    cases hover
  · exact .inl hvalid
  · exact .inr hinvalid

/-- From P_PUBLISH the snapshot is written and the loop test is next (rule R185). -/
theorem InPush.arrives_publish {p : List Sample} {s : State} {d : DemodRsp} {a : Session} {demod dec : List Reply}
    (h : InPush p s) (hs : StandsFor (.pPublish d) a demod dec s) :
    Arrives 1 s .pLoopTest { a with snap := publishedSnapshot d a.fsm a.snap } demod dec := by
  obtain ⟨hp, rfl, hdemod, hdec⟩ := hs
  exact ⟨pushPublish d s, h.advances_exec (by rw [adapterInstr, hp]) (by rw [execPush, hp]) rfl, rfl, rfl, hdemod, hdec⟩

/-- One iteration of the block does what ITERATION says, within 10 steps. -/
theorem InPush.arrives_iterationPass {p : List Sample} {s : State} {d : DemodRsp} {y : Reply} {demod dec : List Reply}
    {a : Session} (h : InPush p s) (hp : s.phase = .pLoopTest) (hle : s.r ≤ s.inBuf.occ)
    (hy : s.demodIn = y :: demod) (hd : parseDemod s.cfg y = some d)
    (hpass : iterationPass s.cfg d (sessionOf s) s.decIn = some (a, dec)) :
    Arrives 10 s .pLoopTest a demod dec := by
  have hcall := h.advances_demodCall hp hle hy hd
  have hin := h.of_advances hcall
  have hskip := ringContents_ringSkip s.cfg.inCap s.inBuf s.r
  obtain ⟨hv, e⟩ | ⟨hv, e⟩ := pushConsume_of_le (s := demodReqAnswer d (takeDemod demod
      (issue (.demodReq (BitVec.ofNat 16 s.r) ((sessionOf s).input.take s.r)) s))) d h.inv.inWf h.inv.outWf hle
  · obtain ⟨-, a2, hfsm, rfl⟩ | ⟨hv', -, -⟩ := iterationPass_cases hpass
    · have hconsume := hcall.trans (hin.advances_exec rfl (congrArg _ e) rfl)
      have hout := h.of_advances hconsume
      obtain ⟨u, hu, hst⟩ := hout.arrives_fsmPass (a := a2) (dec := dec) rfl (by
        rw [← hfsm]
        simp only [sessionOf, consumed, ask, ← hskip]
        rfl)
      exact (hconsume.trans hu).arrives ((hout.of_advances hu).arrives_publish hst)
    · exact absurd hv (by simpa using hv')
  · obtain ⟨hv', -⟩ | ⟨-, rfl, rfl⟩ := iterationPass_cases hpass
    · exact absurd hv' (by simpa using hv)
    · refine ⟨_, (hcall.trans (hin.advances_exec rfl (congrArg _ e) rfl)).mono (by decide), rfl, ?_, rfl, rfl⟩
      simp only [sessionOf, consumed, ask, ← hskip]
      rfl

/-! ### CADENCE_LOOP (rule R171) -/

/-- Everything the pseudocode's loop can do: end, or take one answer, iterate and go on. -/
theorem cadencePass_cases {c : Config} {n : Nat} {a a' : Session} {demod dec demod' dec' : List Reply}
    (h : cadencePass c n a demod dec = some (a', demod', dec')) :
    (a.input.length < a.r ∧ a' = a ∧ demod' = demod ∧ dec' = dec) ∨
    (a.r ≤ a.input.length ∧ ∃ m y rest d a1 dec1, n = m + 1 ∧ demod = y :: rest ∧ parseDemod c y = some d ∧
      iterationPass c d a dec = some (a1, dec1) ∧ cadencePass c m a1 rest dec1 = some (a', demod', dec')) := by
  cases n with
  | zero =>
    unfold cadencePass at h
    split at h
    · cases h
      exact .inl ⟨‹_›, rfl, rfl, rfl⟩
    · cases h
  | succ m =>
    unfold cadencePass at h
    split at h
    · cases h
      exact .inl ⟨‹_›, rfl, rfl, rfl⟩
    · refine .inr ⟨by omega, m, ?_⟩
      split at h
      · cases h
      · split at h
        · cases h
        · split at h
          · cases h
          · exact ⟨_, _, _, _, _, rfl, rfl, ‹_›, ‹_›, h⟩

/-- Fewer than `r` samples are held: one step leaves the loop (rule R171). -/
theorem InPush.arrives_loopEnd {p : List Sample} {s : State} (h : InPush p s) (hp : s.phase = .pLoopTest)
    (hlt : (sessionOf s).input.length < s.r) : Arrives 1 s .pDrain (sessionOf s) s.demodIn s.decIn := by
  have hocc : s.inBuf.occ < s.r := by simpa [sessionOf] using hlt
  obtain ⟨hle, -⟩ | ⟨-, e⟩ := pushLoopTest_cases s
  · omega
  · have hexit : Advances 1 s { s with phase := .pDrain } :=
      h.advances_exec (by rw [adapterInstr, hp]) (by rw [execPush, hp, e]) rfl
    exact ⟨_, hexit, rfl, rfl, rfl, rfl⟩

/-- The block's loop does what CADENCE_LOOP says: one step to leave it, and at most 10 for each answer of the
demodulator it takes (rule R180). -/
theorem InPush.arrives_cadencePass {p : List Sample} {n : Nat} {s : State} {a : Session} {demod dec : List Reply}
    (h : InPush p s) (hp : s.phase = .pLoopTest)
    (hpass : cadencePass s.cfg n (sessionOf s) s.demodIn s.decIn = some (a, demod, dec)) :
    ∃ k, k + 10 * demod.length = 1 + 10 * s.demodIn.length ∧ Arrives k s .pDrain a demod dec := by
  induction n generalizing s with
  | zero =>
    obtain ⟨hlt, rfl, rfl, rfl⟩ | ⟨-, m, _, _, _, _, _, hm, -⟩ := cadencePass_cases hpass
    · exact ⟨1, rfl, h.arrives_loopEnd hp hlt⟩
    · cases hm
  | succ n ih =>
    obtain ⟨hlt, rfl, rfl, rfl⟩ | ⟨hle, m, y, rest, d, a1, dec1, hm, hy, hd, hiter, hrest⟩ := cadencePass_cases hpass
    · exact ⟨1, rfl, h.arrives_loopEnd hp hlt⟩
    · cases hm
      obtain ⟨u, hu, hq, rfl, rfl, rfl⟩ := h.arrives_iterationPass hp (by simpa [sessionOf] using hle) hy hd hiter
      obtain ⟨k, hk, harr⟩ := ih (h.of_advances hu) hq (by rwa [hu.cfg_eq])
      exact ⟨10 + k, by rw [hy, List.length_cons]; omega, hu.arrives harr⟩

/-! ### PUSH as a whole (rules R210 to R216) -/

/-- From P_DRAIN the response that DRAIN gives is settled (rules R215 and R216). -/
theorem InPush.arrives_drainPass {p : List Sample} {s : State} {a : Session} {demod dec : List Reply} (h : InPush p s)
    (hs : StandsFor .pDrain a demod dec s) :
    Arrives 1 s (.respond (drainPass s.cfg a).2) (drainPass s.cfg a).1 demod dec := by
  obtain ⟨hp, rfl, hdemod, hdec⟩ := hs
  have hlen : (sessionOf s).output.length = s.outBuf.occ := ringContents_length _ _
  have hexec : execPush p s = .next (pushDrain s) := by rw [execPush, hp]
  have hadapter : adapterInstr s = none := by rw [adapterInstr, hp]
  obtain ⟨hlt, e⟩ | ⟨hle, e⟩ := pushDrain_cases h.inv.inWf h.inv.outWf <;> rw [e] at hexec
  · rw [drainPass, if_neg (by omega)]
    exact ⟨_, h.advances_exec hadapter hexec rfl, rfl, rfl, hdemod, hdec⟩
  · rw [drainPass, if_pos (by omega)]
    refine ⟨_, h.advances_exec hadapter hexec rfl, ?_, ?_, hdemod, hdec⟩
    · rw [respond_phase, ringFront_eq_take hle]
      rfl
    · simp only [sessionOf, ← ringContents_ringSkip]
      rfl

/-- The session after a PUSH's guards and its append (rules R213 and R222). -/
def accepted (p : List Sample) (a : Session) : Session :=
  { a with flags := 0#8, iter := 0#8, dec := 0#8, input := a.input ++ p }

/-- From IDLE, three steps accept the PUSH, clear the accumulators and append its samples: a PUSH to a READY session
always fits (rules R181, R211 to R213 and R222). -/
theorem InPush.arrives_accepted {p : List Sample} {s : State} (h : InPush p s) (hp : s.phase = .idle)
    (hready : s.sess = .ready) :
    Arrives 3 s .pLoopTest (accepted p (sessionOf s)) s.demodIn s.decIn := by
  obtain ⟨-, hended⟩ : s.awaiting = false ∧ (s.sess = .ready → LoopEnded s) := h.inv.phaseOk_at hp
  have hfit : s.inBuf.occ + s.cfg.nPush ≤ s.cfg.inCap := h.inv.push_fits hready (hended hready)
  have hlen := PushAt_length h.command
  have hidle : Advances 1 s { s with phase := .pAccept } :=
    h.advances_exec (by rw [adapterInstr, hp]) (by rw [execPush, hp]) rfl
  have hguards : pushAccept { s with phase := .pAccept } =
      { s with cmdFlags := 0#8, iterCnt := 0#8, decCnt := 0#8, phase := .pAppend } := by
    obtain ⟨hne, -⟩ | ⟨-, hfull, -⟩ | ⟨-, -, e⟩ := pushAccept_cases { s with phase := .pAccept }
    · exact absurd hready hne
    · exact absurd hfull (by simpa using hfit)
    · exact e
  have haccept : Advances 2 s { s with cmdFlags := 0#8, iterCnt := 0#8, decCnt := 0#8, phase := .pAppend } :=
    hidle.trans ((h.of_advances hidle).advances_exec rfl (congrArg _ hguards) rfl)
  have hocc : occupancyOk { s with
      cmdFlags := 0#8, iterCnt := 0#8, decCnt := 0#8, phase := .pAppend,
      inBuf := (ringAppend s.cfg.inCap s.inBuf p).2 } = true :=
    occupancyOk_of_wf (ringAppend_wf p h.inv.inWf) h.inv.outWf
  refine ⟨_, haccept.trans ((h.of_advances haccept).advances_exec rfl
    (congrArg _ (afterBufferOp_ok .pLoopTest hocc)) rfl), rfl, ?_, rfl, rfl⟩
  simp only [sessionOf, accepted, ringContents_ringAppend h.inv.inWf (hlen ▸ hfit)]

/-- The pseudocode's PUSH is its guards and append, its loop and its drain. -/
theorem pushPass_eq_some {c : Config} {p : List Sample} {a a' : Session} {rsp : Response}
    {demod dec demod' dec' : List Reply} (h : pushPass c p a demod dec = some (a', rsp, demod', dec')) :
    ∃ a1, cadencePass c (accepted p a).input.length (accepted p a) demod dec = some (a1, demod', dec') ∧
      a' = (drainPass c a1).1 ∧ rsp = (drainPass c a1).2 := by
  simp only [pushPass] at h
  split at h
  · cases h
    exact ⟨_, ‹_›, rfl, rfl⟩
  · cases h

/-- From IDLE to the settled response: 5 steps, and at most 10 for each answer of the demodulator (rule R180). -/
theorem InPush.arrives_pushPass {p : List Sample} {s : State} {a : Session} {rsp : Response} {demod dec : List Reply}
    (h : InPush p s) (hp : s.phase = .idle) (hready : s.sess = .ready)
    (hpass : pushPass s.cfg p (sessionOf s) s.demodIn s.decIn = some (a, rsp, demod, dec)) :
    ∃ k, k + 10 * demod.length = 5 + 10 * s.demodIn.length ∧ Arrives k s (.respond rsp) a demod dec := by
  obtain ⟨a1, hloop, rfl, rfl⟩ := pushPass_eq_some hpass
  obtain ⟨u, hu, hq, hsession, hdemod, hdec⟩ := h.arrives_accepted hp hready
  obtain ⟨k, hk, v, hv, hst⟩ :=
    (h.of_advances hu).arrives_cadencePass hq (by rwa [hu.cfg_eq, hsession, hdemod, hdec])
  rw [hdemod] at hk
  have hended := hu.trans hv
  have hdrain := (h.of_advances hended).arrives_drainPass hst
  rw [hended.cfg_eq] at hdrain
  exact ⟨3 + k + 1, by omega, hended.arrives hdrain⟩

theorem PushAtPort.inPush {s : State} {p : List Sample} {rest : List Packet} (h : PushAtPort s p rest) (hi : Inv s) :
    InPush p s := by
  obtain ⟨m, hm, hinstr⟩ := h.command
  exact { inv := hi, command := ⟨m, rest, hm, hinstr⟩, quiet := h.quiet }

/-- A PUSH at the port of an IDLE block in a READY session runs as its pseudocode says, within 6 steps and 10 for each
answer of the demodulator that it takes (rules R179 and R180). -/
theorem push_run {s : State} {p : List Sample} {rest : List Packet} {a : Session} {rsp : Response}
    {demod dec : List Reply} (hi : Inv s) (hpush : PushAtPort s p rest)
    (hpass : pushPass s.cfg p (sessionOf s) s.demodIn s.decIn = some (a, rsp, demod, dec)) :
    ∃ n t, n + 10 * demod.length ≤ 6 + 10 * s.demodIn.length ∧ Host.Core.run Sys2Proof.core n s = .next t ∧
      t.sess = .ready ∧ t.hostOut = s.hostOut ++ [rsp] ∧ t.cmdIn = rest ∧ StandsFor .idle a demod dec t := by
  have h := hpush.inPush hi
  obtain ⟨k, hk, u, hu, hq, hsession, hdemod, hdec⟩ := h.arrives_pushPass hpush.idle hpush.ready hpass
  have hin := h.of_advances hu
  obtain ⟨⟨n, hn, hrun⟩, hs⟩ := hu
  obtain ⟨-, hsess, hcmd, hhost, -, -⟩ := surroundings_eq_iff.mp hs
  obtain ⟨m, hm, -⟩ := hpush.command
  have hdeliver : step u = .next (deliver rsp u) := by
    obtain ⟨hstatus, hsched⟩ := hin.quiet
    obtain ⟨m', rest', hm', hinstr⟩ := hin.command
    rw [step_of_quiet hsched hstatus, sequencerStep_eq_command (by rw [adapterInstr, hq]) hm' hinstr]
    obtain ⟨-, -, hrespond⟩ := pushAcceptedAndDelivered p u
    exact hrespond rsp hq
  refine ⟨n + 1, deliver rsp u, by omega, run_add hrun (run_succ_eq_next.mpr ⟨_, hdeliver, rfl⟩),
    hsess.trans hpush.ready, by rw [deliver_hostOut, hhost], by rw [deliver_cmdIn, hcmd, hm, List.tail_cons],
    ⟨rfl, hsession, hdemod, hdec⟩⟩

/-- Settles O59: the run of `push_run`, read off the state it ends in. -/
theorem pushRefinesPseudocode : Obligations.PushRefinesPseudocode := by
  intro s p rest a rsp demod dec hi hpush hpass
  obtain ⟨n, t, -, hrun, hsess, hhost, hcmd, hidle, hsession, hdemod, hdec⟩ := push_run hi hpush hpass
  exact ⟨n, t, hrun, hidle, hsess, hsession, congrArg Session.asked hsession, hhost, hcmd, hdemod, hdec⟩

end Sys2Proof.Machine
end

section
/-! PROOF. The bit packer and the two ends of a decoder call (rules R147 to R154). The packer writes the bits of a byte
most significant first, so bit `i` of the frame is the bit `7 - i mod 8` that `unpack` reads of byte `i / 8`, and the two
are inverse to each other bit by bit. -/

namespace Sys2Proof.Machine

/-! ### The bit packer (rules R150 and R152) -/

/-- Shifting in `n` bits one after the other leaves the first one most significant. -/
theorem foldl_shiftIn_testBit (f : Nat → Bool) {n j : Nat} (hj : j < n) :
    ((List.range n).foldl (fun acc k => 2 * acc + (f k).toNat) 0).testBit (n - 1 - j) = f j := by
  induction n with
  | zero => cases hj
  | succ n ih =>
    rw [List.range_succ, List.foldl_append, List.foldl_cons, List.foldl_nil]
    generalize hacc : (List.range n).foldl (fun acc k => 2 * acc + (f k).toNat) 0 = acc at ih ⊢
    have hlt := (f n).toNat_lt
    obtain rfl | hjn := Nat.eq_or_lt_of_le (Nat.le_of_lt_succ hj)
    · rw [show j + 1 - 1 - j = 0 by omega, Nat.testBit_zero]
      cases f j <;> simp
    · rw [show n + 1 - 1 - j = (n - 1 - j) + 1 by omega, Nat.testBit_succ,
        show (2 * acc + (f n).toNat) / 2 = acc by omega, ih hjn]

/-- The `j`-th of eight bits is bit `7 - j` of their byte (rule R150). -/
theorem byteOfBits_getLsbD (bits : List Bool) {j : Nat} (hj : j < 8) :
    (byteOfBits bits).getLsbD (7 - j) = bits.getD j false := by
  rw [byteOfBits, BitVec.getLsbD_ofNat, foldl_shiftIn_testBit (fun k => bits.getD k false) hj]
  simp [show 7 - j < 8 by omega]

@[simp] theorem pack_length (n : Nat) (bits : List Bool) : (pack n bits).length = n := by simp [pack]

/-- Bit `i` of the frame stands in byte `i / 8`, at bit `7 - i mod 8` (rule R150). -/
theorem pack_getD_getLsbD {n i : Nat} (bits : List Bool) (hi : i < 8 * n) :
    ((pack n bits).getD (i / 8) 0#8).getLsbD (7 - i % 8) = bits.getD i false := by
  have hbyte : i / 8 < n := by omega
  have hbit : i % 8 < 8 := Nat.mod_lt _ (by decide)
  rw [List.getD_eq_getElem _ _ (by simpa using hbyte)]
  simp only [pack, List.getElem_map, List.getElem_range]
  rw [byteOfBits_getLsbD _ hbit]
  simp [List.getD_eq_getElem?_getD, hbit, Nat.div_add_mod]

@[simp] theorem unpack_length (bytes : List Byte) : (unpack bytes).length = 8 * bytes.length := by simp [unpack]

theorem unpack_getD {bytes : List Byte} {i : Nat} (hi : i < 8 * bytes.length) :
    (unpack bytes).getD i false = (bytes.getD (i / 8) 0#8).getLsbD (7 - i % 8) := by
  simp [unpack, hi]

/-- Settles O8: the place of each bit, for any bits that are packed. -/
theorem packPlacesBits : Obligations.PackPlacesBits :=
  fun n bits _ => ⟨pack_length n bits, fun _ hi => pack_getD_getLsbD bits hi⟩

theorem unpack_pack {n : Nat} {bits : List Bool} (hlen : bits.length = 8 * n) : unpack (pack n bits) = bits := by
  refine List.ext_getElem (by simp [hlen]) fun i hi hi' => ?_
  have hframe : i < 8 * n := by omega
  rw [← List.getD_eq_getElem _ false hi, ← List.getD_eq_getElem _ false hi', unpack_getD (by simpa using hframe)]
  exact pack_getD_getLsbD bits hframe

theorem pack_unpack (bytes : List Byte) : pack bytes.length (unpack bytes) = bytes := by
  refine List.ext_getElem (by simp) fun k hk hk' => BitVec.eq_of_getLsbD_eq fun b hb => ?_
  -- Bit `b` of byte `k` is frame bit `8*k + (7 - b)`, for the packer and for the unpacker.
  have hframe : 8 * k + (7 - b) < 8 * bytes.length := by omega
  have hplace := (pack_getD_getLsbD (unpack bytes) hframe).trans (unpack_getD hframe)
  rw [show (8 * k + (7 - b)) / 8 = k by omega, show 7 - (8 * k + (7 - b)) % 8 = b by omega] at hplace
  rwa [← List.getD_eq_getElem _ 0#8 hk, ← List.getD_eq_getElem _ 0#8 hk']

/-- Settles O9: the packer and the unpacker undo each other, bit by bit. -/
theorem packIsBijective : Obligations.PackIsBijective :=
  ⟨fun _ _ hlen => unpack_pack hlen, pack_unpack⟩

/-! ### The decoder call (rules R147 to R149 and R153) -/

/-- Settles O25: the step issues the request of its phase, which carries the packed `PEND`. -/
theorem decodeGetsPackedFrame : Obligations.DecodeGetsPackedFrame := by
  refine ⟨fun s d hp ha hstatus hsched hbytes => ?_, fun bytes => ⟨bytesToWords_length bytes, fun k hk => ?_⟩⟩
  · have hreq : adapterInstr s = some (.decDecode (pack s.cfg.nbytes s.pend)) := by rw [adapterInstr, hp]
    have hfits : packFits s.cfg = true := beq_iff_eq.mpr hbytes
    rw [step_of_quiet hsched hstatus, sequencerStep_eq_adapter hreq, exec_decDecode_issue _ ha hfits,
      satInc_eq_ofNat_min]
    rfl
  · rw [← Nat.shiftRight_eq_div_pow, ← BitVec.extractLsb'_toNat, bytesToWords_extractByte hk,
      List.getD_eq_getElem _ _ hk]

/-- With `ok = 0` the answer holds no audio, whatever samples follow (rule R89). -/
theorem parseDecode_failed {c : Config} {w : Word} (audio : List Sample) (hw : w.getLsbD 0 = false) :
    parseDecode c { words := [w], samples := audio } = some none := by
  have hok : replyBit0 w = false := hw
  simp [parseDecode, hok]

theorem parseDecode_decoded {c : Config} {w : Word} {audio : List Sample} (hw : w.getLsbD 0 = true)
    (hlen : audio.length = c.frameOut) :
    parseDecode c { words := [w], samples := audio } = some (some audio) := by
  have hok : replyBit0 w = true := hw
  simp [parseDecode, hok, hlen]

/-- A frame with room is appended, and the iteration re-arms and publishes (rule R149). -/
theorem finishFrame_of_fits {s : State} {v : List Sample} (d : DemodRsp) (hi : ringWf s.cfg.inCap s.inBuf = true)
    (ho : ringWf s.cfg.outCap s.outBuf = true) (hfit : s.outBuf.occ + s.cfg.frameOut ≤ s.cfg.outCap) :
    finishFrame (some v) d s =
      fsmTo .waitFirstHalf d { s with outBuf := (ringAppend s.cfg.outCap s.outBuf v).2 } := by
  obtain ⟨hnone, -⟩ | ⟨v', hv, -, e⟩ | ⟨v', -, hfull, -⟩ := finishFrame_cases (some v) d hi ho
  · cases hnone
  · cases hv
    exact e
  · omega

/-- A frame without room is dropped (rule R149). -/
theorem finishFrame_of_full {s : State} {v : List Sample} (d : DemodRsp)
    (hfull : s.outBuf.occ + s.cfg.frameOut > s.cfg.outCap) :
    finishFrame (some v) d s = fsmTo .waitFirstHalf d (setEvent .frameDrop s) :=
  if_neg (Nat.not_le.mpr hfull)

/-- Settles O26: the answer is parsed and the frame is finished without audio, without room, or with both. -/
theorem decDecodeAnswers : Obligations.DecDecodeAnswers := by
  intro s d bytes w audio rest hp ha hin hi ho
  refine ⟨fun hw => ?_, fun hw hlen hfull => ?_, fun hw hlen hfit => ?_⟩
  · exact exec_decDecode_answer bytes hp ha hin (parseDecode_failed audio hw)
  · rw [exec_decDecode_answer bytes hp ha hin (parseDecode_decoded hw hlen),
      finishFrame_of_full (s := takeDec rest s) d hfull]
    rfl
  · rw [exec_decDecode_answer bytes hp ha hin (parseDecode_decoded hw hlen),
      finishFrame_of_fits (s := takeDec rest s) d hi ho hfit]
    exact ⟨_, rfl, rfl, ringContents_ringAppend ho (hlen ▸ hfit)⟩

end Sys2Proof.Machine
end

section
/-! PROOF. The state machine step in each of its three states (rules R131 to R141), lock loss in all of them (rule
R156), and the fields of a response that it reads (rules R135 and R142). -/

namespace Sys2Proof.Machine

/-- In P_FSM a PUSH takes the state machine step (rule R172). -/
theorem exec_push_of_pFsm {s : State} {d : DemodRsp} (p : List Sample) (hp : s.phase = .pFsm d) :
    exec (.push p) s = .next (fsmStep d s) := by
  simp only [exec, execPush, hp]

theorem fsmStep_of_unsynced {s : State} (d : DemodRsp) (hf : s.fsm = .unsynced) : fsmStep d s = stepUnsynced d s := by
  simp only [fsmStep, hf]

theorem fsmStep_of_waitFirstHalf {s : State} (d : DemodRsp) (hf : s.fsm = .waitFirstHalf) :
    fsmStep d s = stepWaitFirst d s := by
  simp only [fsmStep, hf]

theorem fsmStep_of_waitSecondHalf {s : State} (d : DemodRsp) (hf : s.fsm = .waitSecondHalf) :
    fsmStep d s = stepWaitSecond d s := by
  simp only [fsmStep, hf]

/-! ### STEP_UNSYNCED (rules R132 to R135) -/

/-- The lock test, with the SNRs as the signed numbers they stand for (rule R134). -/
theorem lockTest_iff {c : Config} {d : DemodRsp} :
    lockTest c d = true ↔ d.lock = true ∧ d.snr.toInt > c.snrThr.toInt := by
  rw [lockTest, Bool.and_eq_true, BitVec.slt_iff_toInt_lt]

theorem unsyncedNext_of_lockTest {c : Config} {d : DemodRsp} (h : d.lock = true ∧ d.snr.toInt > c.snrThr.toInt) :
    unsyncedNext c d = .waitFirstHalf := if_pos (lockTest_iff.mpr h)

theorem unsyncedNext_of_not_lockTest {c : Config} {d : DemodRsp}
    (h : ¬ (d.lock = true ∧ d.snr.toInt > c.snrThr.toInt)) : unsyncedNext c d = .unsynced :=
  if_neg (mt lockTest_iff.mp h)

/-- The lock test reads `lock` and `snr` (rule R142). -/
theorem unsyncedNext_congr (c : Config) {d e : DemodRsp} (hlock : d.lock = e.lock) (hsnr : d.snr = e.snr) :
    unsyncedNext c d = unsyncedNext c e := by
  have htest : lockTest c d = lockTest c e := by rw [lockTest, lockTest, hlock, hsnr]
  rw [unsyncedNext, unsyncedNext, htest]

/-- Settles O35: the silence block fits or not, and `fsm` takes the value of the lock test either way. -/
theorem unsyncedStep : Obligations.UnsyncedStep := by
  intro p s d hp hf hi ho
  refine ⟨fsmStep d s, exec_push_of_pFsm p hp, ?_⟩
  rw [fsmStep_of_unsynced d hf]
  obtain ⟨hfit, e⟩ | ⟨hfull, e⟩ := stepUnsynced_cases d hi ho <;> rw [e]
  · refine ⟨unsyncedNext_of_lockTest, unsyncedNext_of_not_lockTest, fun _ => ⟨rfl, ?_⟩, fun hfull => by omega⟩
    exact ringContents_ringAppend ho (by simpa using hfit)
  · exact ⟨unsyncedNext_of_lockTest, unsyncedNext_of_not_lockTest, fun hfit => by omega, fun _ => rfl⟩

/-! ### The captures (rules R137 and R141) -/

theorem captureFirst_getD_of_lt {c : Config} {bits : List Bool} (pend : List Bool) {j : Nat} (hb : bits.length = c.b)
    (hj : j < c.b) : (captureFirst c bits pend).getD j false = bits.getD j false :=
  List.getD_append _ _ _ _ (by omega)

theorem captureFirst_getD_of_le {c : Config} {bits : List Bool} (pend : List Bool) {j : Nat} (hb : bits.length = c.b)
    (hj : c.b ≤ j) : (captureFirst c bits pend).getD j false = pend.getD j false := by
  rw [captureFirst, List.getD_append_right _ _ _ _ (by omega), hb]
  simp [List.getD_eq_getElem?_getD, Nat.add_sub_cancel' hj]

theorem captureSecond_getD_of_lt {c : Config} (bits : List Bool) {pend : List Bool} {j : Nat}
    (hp : pend.length = c.frameBits) (hj : j < c.b) :
    (captureSecond c bits pend).getD j false = pend.getD j false := by
  have hlen : j < (pend.take c.b).length := by
    simp only [List.length_take, hp, Config.frameBits]
    omega
  rw [captureSecond, List.getD_append _ _ _ _ hlen]
  simp [List.getD_eq_getElem?_getD, hj]

theorem captureSecond_getD_add {c : Config} (bits : List Bool) {pend : List Bool} (j : Nat)
    (hp : pend.length = c.frameBits) : (captureSecond c bits pend).getD (c.b + j) false = bits.getD j false := by
  have hlen : (pend.take c.b).length = c.b := by
    simp only [List.length_take, hp, Config.frameBits]
    omega
  rw [captureSecond, List.getD_append_right _ _ _ _ (by omega), hlen, Nat.add_sub_cancel_left]

/-! ### STEP_WAIT_FIRST and STEP_WAIT_SECOND (rules R136 to R141) -/

theorem stepWaitFirst_of_lockLoss {d : DemodRsp} (s : State) (hl : d.lock = false) :
    stepWaitFirst d s = fsmTo .unsynced d s := if_pos hl

theorem stepWaitSecond_of_lockLoss {d : DemodRsp} (s : State) (hl : d.lock = false) :
    stepWaitSecond d s = fsmTo .unsynced d s := if_pos hl

theorem stepWaitFirst_of_capture {d : DemodRsp} (s : State) (hl : d.lock = true) (hs : d.sync = false) :
    stepWaitFirst d s = fsmTo .waitSecondHalf d { s with pend := captureFirst s.cfg d.bits s.pend } := by
  simp [stepWaitFirst, hl, hs]

theorem stepWaitSecond_of_capture {d : DemodRsp} (s : State) (hl : d.lock = true) (hs : d.sync = true) :
    stepWaitSecond d s = { s with pend := captureSecond s.cfg d.bits s.pend, phase := .pRepairWait d } := by
  simp [stepWaitSecond, hl, hs]

/-- Settles O36: the three cases of the step, and the places of the first half's bits. -/
theorem waitFirstStep : Obligations.WaitFirstStep := by
  intro p s d hp hf
  rw [exec_push_of_pFsm p hp, fsmStep_of_waitFirstHalf d hf]
  refine ⟨fun hl => ?_, fun hl hs => ?_, fun hl hs hb hlen => ?_⟩
  · rw [stepWaitFirst_of_lockLoss s hl]
    rfl
  · have hkeep : stepWaitFirst d s = fsmTo s.fsm d s := by simp [stepWaitFirst, hl, hs, hf]
    rw [hkeep]
    rfl
  · rw [stepWaitFirst_of_capture s hl hs]
    exact ⟨_, rfl, rfl, captureFirst_length hb hlen, fun _ hj => captureFirst_getD_of_lt _ hb hj,
      fun _ hj _ => captureFirst_getD_of_le _ hb hj⟩

/-- Settles O37: the three cases of the step, and the places of the second half's bits. -/
theorem waitSecondStep : Obligations.WaitSecondStep := by
  intro p s d hp hf
  rw [exec_push_of_pFsm p hp, fsmStep_of_waitSecondHalf d hf]
  refine ⟨fun hl => ?_, fun hl hs => ?_, fun hl hs hb hlen => ?_⟩
  · rw [stepWaitSecond_of_lockLoss s hl]
    rfl
  · have hrearm : stepWaitSecond d s = fsmTo .waitFirstHalf d s := by simp [stepWaitSecond, hl, hs]
    rw [hrearm]
    rfl
  · rw [stepWaitSecond_of_capture s hl hs]
    exact ⟨_, rfl, rfl, captureSecond_length hb hlen, fun _ hj => captureSecond_getD_of_lt _ hlen hj,
      fun j _ => captureSecond_getD_add _ j hlen⟩

/-! ### Lock loss (rule R156) -/

/-- Outside UNSYNCED a step without lock only leaves for UNSYNCED (rules R136 and R140). -/
theorem fsmStep_of_lockLoss {s : State} {d : DemodRsp} (hf : s.fsm ≠ .unsynced) (hl : d.lock = false) :
    fsmStep d s = fsmTo .unsynced d s := by
  cases h : s.fsm with
  | unsynced => exact absurd h hf
  | waitFirstHalf => exact (fsmStep_of_waitFirstHalf d h).trans (stepWaitFirst_of_lockLoss s hl)
  | waitSecondHalf => exact (fsmStep_of_waitSecondHalf d h).trans (stepWaitSecond_of_lockLoss s hl)

/-- Settles O52: in UNSYNCED the lock test fails, and elsewhere nothing but the state changes. -/
theorem lockLossForcesUnsynced : Obligations.LockLossForcesUnsynced := by
  intro p s d hp hl hi ho
  refine ⟨fsmStep d s, exec_push_of_pFsm p hp, ?_⟩
  by_cases hf : s.fsm = .unsynced
  · have hnext : unsyncedNext s.cfg d = .unsynced := unsyncedNext_of_not_lockTest (by simp [hl])
    rw [fsmStep_of_unsynced d hf]
    obtain ⟨-, e⟩ | ⟨-, e⟩ := stepUnsynced_cases d hi ho <;> rw [e]
    · exact ⟨hnext, rfl, rfl, fun hne => absurd hf hne⟩
    · exact ⟨hnext, rfl, rfl, fun hne => absurd hf hne⟩
  · rw [fsmStep_of_lockLoss hf hl]
    exact ⟨rfl, rfl, rfl, fun _ => rfl⟩

/-! ### What a step reads of a response (rules R135 and R142) -/

/-- Two outcomes that differ at most in the record, `d` or `e`, carried on to the publication. -/
def SameUpToRecord (d e : DemodRsp) (t u : State) : Prop :=
  t = u ∨ ∃ p q, t.phase = p ∧ u.phase = q ∧
    (p = .pPublish d ∧ q = .pPublish e ∨ p = .pRepairWait d ∧ q = .pRepairWait e) ∧ t = { u with phase := p }

theorem sameUpToRecord_fsmTo (f : Fsm) (d e : DemodRsp) (s : State) : SameUpToRecord d e (fsmTo f d s) (fsmTo f e s) :=
  .inr ⟨_, _, rfl, rfl, .inl ⟨rfl, rfl⟩, rfl⟩

/-- STEP_UNSYNCED reads only `lock` and `snr` (rule R135). -/
theorem stepUnsynced_sameUpToRecord {d e : DemodRsp} (s : State) (hlock : d.lock = e.lock) (hsnr : d.snr = e.snr) :
    SameUpToRecord d e (stepUnsynced d s) (stepUnsynced e s) := by
  simp only [stepUnsynced, unsyncedNext_congr s.cfg hlock hsnr]
  split
  · split
    · exact sameUpToRecord_fsmTo _ d e _
    · exact .inl rfl
  · exact sameUpToRecord_fsmTo _ d e _

/-- STEP_WAIT_FIRST reads only `lock`, `sync` and `bits` (rule R142). -/
theorem stepWaitFirst_sameUpToRecord {d e : DemodRsp} (s : State) (hlock : d.lock = e.lock) (hsync : d.sync = e.sync)
    (hbits : d.bits = e.bits) : SameUpToRecord d e (stepWaitFirst d s) (stepWaitFirst e s) := by
  simp only [stepWaitFirst, hlock, hsync, hbits]
  split
  · exact sameUpToRecord_fsmTo _ d e s
  · split
    · exact sameUpToRecord_fsmTo _ d e _
    · exact sameUpToRecord_fsmTo _ d e s

/-- STEP_WAIT_SECOND reads only `lock`, `sync` and `bits` (rule R142). -/
theorem stepWaitSecond_sameUpToRecord {d e : DemodRsp} (s : State) (hlock : d.lock = e.lock) (hsync : d.sync = e.sync)
    (hbits : d.bits = e.bits) : SameUpToRecord d e (stepWaitSecond d s) (stepWaitSecond e s) := by
  simp only [stepWaitSecond, hlock, hsync, hbits]
  split
  · exact sameUpToRecord_fsmTo _ d e s
  · split
    · exact sameUpToRecord_fsmTo _ d e s
    · exact .inr ⟨_, _, rfl, rfl, .inr ⟨rfl, rfl⟩, rfl⟩

/-- Settles O58: the step of each state reads only fields that agree, and validity reads `valid` and `next_r`. -/
theorem opaqueStatisticsNeverSteer : Obligations.OpaqueStatisticsNeverSteer := by
  intro s d e hvalid hnext hsync hlock hbits hsnr
  refine ⟨?_, by simp only [responseValid, hvalid, hnext]⟩
  cases hf : s.fsm with
  | unsynced =>
    rw [fsmStep_of_unsynced d hf, fsmStep_of_unsynced e hf]
    exact stepUnsynced_sameUpToRecord s hlock (hsnr.resolve_right fun hne => hne hf)
  | waitFirstHalf =>
    rw [fsmStep_of_waitFirstHalf d hf, fsmStep_of_waitFirstHalf e hf]
    exact stepWaitFirst_sameUpToRecord s hlock hsync hbits
  | waitSecondHalf =>
    rw [fsmStep_of_waitSecondHalf d hf, fsmStep_of_waitSecondHalf e hf]
    exact stepWaitSecond_sameUpToRecord s hlock hsync hbits

end Sys2Proof.Machine
end

section
/-! PROOF. A frame is decoded only after both its halves (rule R155). A move that is no state machine step and no
repaired frame enters neither WAIT_SECOND_HALF nor COMPLETE_FRAME, whatever else it does, and a request that goes out is
the one of the phase the sequencer stands in; what the state machine step can do is read off its three states. -/

namespace Sys2Proof.Machine

/-! ### Moves outside the state machine step and the repair -/

/-- A move from `s` that enters neither a phase of COMPLETE_FRAME nor WAIT_SECOND_HALF, counts a decoder call only in
P_DECODE_WAIT, and sends only the request of its phase. -/
structure EntersNoFrame (s t : State) : Prop where
  phase : t.phase = s.phase ∨ frameRsp t.phase = none
  fsm : t.fsm = .waitSecondHalf → s.fsm = .waitSecondHalf
  decCnt : t.decCnt = s.decCnt ∨ s.phase = .cReset ∨ s.phase = .pAccept ∨ ∃ d, s.phase = .pDecodeWait d
  requests : t.adapterOut = s.adapterOut ∨
    ∃ i, adapterInstr s = some i ∧ t.adapterOut = s.adapterOut ++ [encode i]

theorem createCheck_entersNoFrame (s : State) : EntersNoFrame s (createCheck s) := by
  obtain ⟨_, e⟩ | ⟨k, _, e⟩ := createCheck_cases s <;> rw [e] <;> exact ⟨.inr rfl, id, .inl rfl, .inl rfl⟩

theorem pushAccept_entersNoFrame {s : State} (hp : s.phase = .pAccept) : EntersNoFrame s (pushAccept s) := by
  obtain ⟨_, e⟩ | ⟨_, _, e⟩ | ⟨_, _, e⟩ := pushAccept_cases s <;> rw [e]
  · exact ⟨.inr rfl, id, .inl rfl, .inl rfl⟩
  · exact ⟨.inr rfl, id, .inl rfl, .inl rfl⟩
  · exact ⟨.inr rfl, id, .inr (.inr (.inl hp)), .inl rfl⟩

theorem pushAppend_entersNoFrame (p : List Sample) (s : State) : EntersNoFrame s (pushAppend p s) := by
  unfold pushAppend afterBufferOp
  split <;> exact ⟨.inr rfl, id, .inl rfl, .inl rfl⟩

theorem pushLoopTest_entersNoFrame (s : State) : EntersNoFrame s (pushLoopTest s) := by
  obtain ⟨_, e⟩ | ⟨_, e⟩ := pushLoopTest_cases s <;> rw [e] <;> exact ⟨.inr rfl, id, .inl rfl, .inl rfl⟩

theorem pushConsume_entersNoFrame (d : DemodRsp) (s : State) : EntersNoFrame s (pushConsume d s) := by
  obtain ⟨_, e⟩ | ⟨_, ⟨_, e⟩ | ⟨_, e⟩ | ⟨_, e⟩⟩ := pushConsume_cases d s <;> rw [e] <;>
    exact ⟨.inr rfl, id, .inl rfl, .inl rfl⟩

theorem pushDrain_entersNoFrame (s : State) : EntersNoFrame s (pushDrain s) := by
  unfold pushDrain
  split
  · dsimp only
    split <;> exact ⟨.inr rfl, id, .inl rfl, .inl rfl⟩
  · split <;> exact ⟨.inr rfl, id, .inl rfl, .inl rfl⟩

theorem issue_entersNoFrame {s : State} {i : Instr} (hi : adapterInstr s = some i) : EntersNoFrame s (issue i s) :=
  ⟨.inl rfl, id, .inl rfl, .inr ⟨i, hi, rfl⟩⟩

theorem decDecodeIssue_entersNoFrame {s : State} {d : DemodRsp} (hp : s.phase = .pDecodeWait d) :
    EntersNoFrame s (decDecodeIssue (pack s.cfg.nbytes s.pend) s) := by
  unfold decDecodeIssue
  split
  · exact ⟨.inl rfl, id, .inr (.inr (.inr ⟨d, hp⟩)), .inr ⟨_, by rw [adapterInstr, hp], rfl⟩⟩
  · exact ⟨.inr rfl, id, .inl rfl, .inl rfl⟩

theorem demodInitAnswer_entersNoFrame (ok : Bool) (rest : List Reply) (s : State) :
    EntersNoFrame s (demodInitAnswer ok (takeDemod rest s)) := by
  cases ok <;> exact ⟨.inr rfl, id, .inl rfl, .inl rfl⟩

theorem decInitAnswer_entersNoFrame (ok : Bool) (rest : List Reply) (s : State) :
    EntersNoFrame s (decInitAnswer ok (takeDec rest s)) := by
  cases ok <;> exact ⟨.inr rfl, id, .inl rfl, .inl rfl⟩

theorem finishFrame_entersNoFrame (audio : Option (List Sample)) (d : DemodRsp) (rest : List Reply) (s : State) :
    EntersNoFrame s (finishFrame audio d (takeDec rest s)) := by
  unfold finishFrame
  split
  · exact ⟨.inr rfl, nofun, .inl rfl, .inl rfl⟩
  · split
    · dsimp only
      split
      · exact ⟨.inr rfl, nofun, .inl rfl, .inl rfl⟩
      · exact ⟨.inr rfl, id, .inl rfl, .inl rfl⟩
    · exact ⟨.inr rfl, nofun, .inl rfl, .inl rfl⟩

/-! ### What a step can do to a frame -/

/-- What a step from `s` can be: one that enters no frame and, if it stands in P_FSM, stays there; the state machine
step, after taking an entry off the schedule or not; or the repair's answer. -/
inductive FrameEvent (s t : State) : Prop
  | outside : (t.phase = s.phase ∨ ∀ d, s.phase ≠ .pFsm d) → EntersNoFrame s t → FrameEvent s t
  | stepped (d : DemodRsp) (sched : List Agent) : s.phase = .pFsm d → t = fsmStep d { s with schedule := sched } →
      FrameEvent s t
  | repaired (d : DemodRsp) : s.phase = .pRepairWait d → t.phase = .pDecodeWait d → t.fsm = s.fsm →
      t.decCnt = s.decCnt → t.adapterOut = s.adapterOut → FrameEvent s t

/-- Every move of either agent is one of these events. -/
theorem Moves.frameEvent {s t : State} (hm : Moves s t) : FrameEvent s t := by
  cases hm with
  | wait => exact .outside (.inl rfl) ⟨.inl rfl, id, .inl rfl, .inl rfl⟩
  | status ws => exact .outside (.inl rfl) ⟨.inl rfl, id, .inl rfl, .inl rfl⟩
  | acceptCreate hp _ => exact .outside (.inr (by simp [hp])) ⟨.inr rfl, id, .inl rfl, .inl rfl⟩
  | acceptPush p hp _ => exact .outside (.inr (by simp [hp])) ⟨.inr rfl, id, .inl rfl, .inl rfl⟩
  | illegal hp _ => exact .outside (.inr (by simp [hp])) ⟨.inr rfl, id, .inl rfl, .inl rfl⟩
  | deliver rsp hp => exact .outside (.inr (by simp [hp])) ⟨.inr rfl, id, .inl rfl, .inl rfl⟩
  | reset hp _ => exact .outside (.inr (by simp [hp])) ⟨.inr rfl, nofun, .inr (.inl hp), .inl rfl⟩
  | check hp _ => exact .outside (.inr (by simp [hp])) (createCheck_entersNoFrame s)
  | accept p hp _ => exact .outside (.inr (by simp [hp])) (pushAccept_entersNoFrame hp)
  | append p hp _ => exact .outside (.inr (by simp [hp])) (pushAppend_entersNoFrame p s)
  | loopTest p hp _ => exact .outside (.inr (by simp [hp])) (pushLoopTest_entersNoFrame s)
  | consume p d hp _ => exact .outside (.inr (by simp [hp])) (pushConsume_entersNoFrame d s)
  | fsm p d hp _ => exact .stepped d s.schedule hp rfl
  | publish p d hp _ => exact .outside (.inr (by simp [hp])) ⟨.inr rfl, id, .inl rfl, .inl rfl⟩
  | drain p hp _ => exact .outside (.inr (by simp [hp])) (pushDrain_entersNoFrame s)
  | issueDemodInit hp _ => exact .outside (.inl rfl) (issue_entersNoFrame (by rw [adapterInstr, hp]))
  | issueDecInit hp _ => exact .outside (.inl rfl) (issue_entersNoFrame (by rw [adapterInstr, hp]))
  | issueDemodReq hp _ => exact .outside (.inl rfl) (issue_entersNoFrame (by rw [adapterInstr, hp]))
  | issueDecRepair d hp _ => exact .outside (.inl rfl) (issue_entersNoFrame (by rw [adapterInstr, hp]))
  | issueDecDecode d hp _ => exact .outside (.inr (by simp [hp])) (decDecodeIssue_entersNoFrame hp)
  | demodInit y rest ok hp _ _ _ => exact .outside (.inr (by simp [hp])) (demodInitAnswer_entersNoFrame ok rest s)
  | decInit y rest ok hp _ _ _ => exact .outside (.inr (by simp [hp])) (decInitAnswer_entersNoFrame ok rest s)
  | demodReq y rest d hp _ _ _ => exact .outside (.inr (by simp [hp])) ⟨.inr rfl, id, .inl rfl, .inl rfl⟩
  | decRepair y rest bits d hp _ _ _ => exact .repaired d hp rfl rfl rfl rfl
  | decDecode y rest audio d hp _ _ _ =>
    exact .outside (.inr (by simp [hp])) (finishFrame_entersNoFrame audio d rest s)

/-- A step is one event: the schedule is no part of what an event speaks of. -/
theorem step_frameEvent {s t : State} (h : step s = .next t) : FrameEvent s t := by
  obtain ⟨u, rfl | ⟨sched, rfl⟩, hm⟩ := step_moves h
  · exact hm.frameEvent
  · cases hm.frameEvent with
    | outside hp ho => exact .outside hp ⟨ho.phase, ho.fsm, ho.decCnt, ho.requests⟩
    | stepped d sched' hp e => exact .stepped d sched' hp e
    | repaired d hp hq hf hc ha => exact .repaired d hp hq hf hc ha

/-! ### What the state machine step can do to a frame (rules R131 to R141) -/

/-- STEP_UNSYNCED makes its lock test and publishes, or ends in InternalFault and leaves `fsm` (rules R132 and R262). -/
theorem stepUnsynced_fsm_phase (d : DemodRsp) (s : State) :
    (stepUnsynced d s).fsm = unsyncedNext s.cfg d ∧ (stepUnsynced d s).phase = .pPublish d ∨
    (stepUnsynced d s).fsm = s.fsm ∧ frameRsp (stepUnsynced d s).phase = none := by
  unfold stepUnsynced
  split
  · dsimp only
    split
    · exact .inl ⟨rfl, rfl⟩
    · exact .inr ⟨rfl, rfl⟩
  · exact .inl ⟨rfl, rfl⟩

@[simp] theorem stepUnsynced_decCnt (d : DemodRsp) (s : State) : (stepUnsynced d s).decCnt = s.decCnt := by
  unfold stepUnsynced
  split
  · dsimp only
    split <;> rfl
  · rfl

@[simp] theorem fsmStep_decCnt (d : DemodRsp) (s : State) : (fsmStep d s).decCnt = s.decCnt := by
  cases hf : s.fsm with
  | unsynced => rw [fsmStep_of_unsynced d hf, stepUnsynced_decCnt]
  | waitFirstHalf =>
    rw [fsmStep_of_waitFirstHalf d hf]
    obtain ⟨_, e⟩ | ⟨_, _, e⟩ | ⟨_, _, e⟩ := stepWaitFirst_cases d s <;> rw [e] <;> rfl
  | waitSecondHalf =>
    rw [fsmStep_of_waitSecondHalf d hf]
    obtain ⟨_, e⟩ | ⟨_, _, e⟩ | ⟨_, _, e⟩ := stepWaitSecond_cases d s <;> rw [e] <;> rfl

theorem unsyncedNext_ne_waitSecondHalf (c : Config) (d : DemodRsp) : unsyncedNext c d ≠ .waitSecondHalf := by
  unfold unsyncedNext
  split <;> nofun

/-- The one way into WAIT_SECOND_HALF (rule R137). -/
theorem fsmStep_enters_waitSecondHalf {d : DemodRsp} {s : State} (h : (fsmStep d s).fsm = .waitSecondHalf)
    (hne : s.fsm ≠ .waitSecondHalf) :
    s.fsm = .waitFirstHalf ∧ d.lock = true ∧ d.sync = false ∧
      (fsmStep d s).pend = captureFirst s.cfg d.bits s.pend := by
  cases hf : s.fsm with
  | unsynced =>
    rw [fsmStep_of_unsynced d hf] at h
    obtain ⟨e, -⟩ | ⟨e, -⟩ := stepUnsynced_fsm_phase d s
    · exact absurd (e.symm.trans h) (unsyncedNext_ne_waitSecondHalf s.cfg d)
    · exact absurd (e.symm.trans h) hne
  | waitFirstHalf =>
    rw [fsmStep_of_waitFirstHalf d hf] at h ⊢
    obtain ⟨_, e⟩ | ⟨hl, hs, e⟩ | ⟨_, _, e⟩ := stepWaitFirst_cases d s <;> rw [e] at h ⊢
    · cases h
    · exact ⟨rfl, hl, hs, rfl⟩
    · cases h
  | waitSecondHalf => exact absurd hf hne

/-- A step in WAIT_SECOND_HALF leaves it, or has both halves of a frame (rules R139 to R141). -/
theorem fsmStep_of_waitSecondHalf_ends {d : DemodRsp} {s : State} (hf : s.fsm = .waitSecondHalf) :
    (fsmStep d s).fsm ≠ .waitSecondHalf ∨ (fsmStep d s).phase = .pRepairWait d := by
  rw [fsmStep_of_waitSecondHalf d hf]
  obtain ⟨_, e⟩ | ⟨_, _, e⟩ | ⟨_, _, e⟩ := stepWaitSecond_cases d s <;> rw [e]
  · exact .inl nofun
  · exact .inl nofun
  · exact .inr rfl

/-- The one way into COMPLETE_FRAME (rule R141). -/
theorem fsmStep_enters_frame {d d' : DemodRsp} {s : State} (h : frameRsp (fsmStep d s).phase = some d') :
    (fsmStep d s).phase = .pRepairWait d ∧ s.fsm = .waitSecondHalf ∧ d.lock = true ∧ d.sync = true := by
  cases hf : s.fsm with
  | unsynced =>
    rw [fsmStep_of_unsynced d hf] at h
    obtain ⟨-, e⟩ | ⟨-, e⟩ := stepUnsynced_fsm_phase d s <;> rw [e] at h <;> cases h
  | waitFirstHalf =>
    rw [fsmStep_of_waitFirstHalf d hf] at h
    obtain ⟨_, e⟩ | ⟨_, _, e⟩ | ⟨_, _, e⟩ := stepWaitFirst_cases d s <;> rw [e] at h <;> cases h
  | waitSecondHalf =>
    rw [fsmStep_of_waitSecondHalf d hf] at h ⊢
    obtain ⟨_, e⟩ | ⟨_, _, e⟩ | ⟨hl, hs, e⟩ := stepWaitSecond_cases d s <;> rw [e] at h ⊢
    · cases h
    · cases h
    · exact ⟨rfl, rfl, hl, hs⟩

/-- Only P_DECODE_WAIT makes a request with DEC_DECODE's opcode (rules R72 and R147). -/
theorem phase_of_decDecode_request {s : State} {i : Instr} (hi : adapterInstr s = some i)
    (hop : opField (encode i).header = 0x22#8) : ∃ d, s.phase = .pDecodeWait d := by
  unfold adapterInstr at hi
  split at hi <;> cases hi
  case h_1 => exact absurd hop (by decide)
  case h_2 => exact absurd hop (by decide)
  case h_3 => simp at hop
  case h_4 => exact absurd ((opField_opHeader 0x21#8).symm.trans hop) (by decide)
  case h_5 hp => exact ⟨_, hp⟩

/-! ### The statement's clauses -/

theorem FrameEvent.waitSecondHalf_entered {s t : State} (he : FrameEvent s t) (hinv : Inv s)
    (h : t.fsm = .waitSecondHalf) (hne : s.fsm ≠ .waitSecondHalf) :
    s.fsm = .waitFirstHalf ∧
      ∃ d, s.phase = .pFsm d ∧ d.lock = true ∧ d.sync = false ∧ t.pend.take s.cfg.b = d.bits := by
  cases he with
  | outside _ ho => exact absurd (ho.fsm h) hne
  | stepped d sched hp e =>
    subst e
    obtain ⟨hf, hl, hs, hpend⟩ := fsmStep_enters_waitSecondHalf h hne
    obtain ⟨-, -, hd⟩ : s.awaiting = false ∧ s.sess = .ready ∧ rspWf s.cfg d = true := hinv.phaseOk_at hp
    obtain ⟨-, hbits⟩ := rspWf_iff.mp hd
    refine ⟨hf, d, hp, hl, hs, ?_⟩
    rw [hpend, captureFirst]
    exact List.take_left' hbits
  | repaired d _ _ hf _ _ => exact absurd (hf.symm.trans h) hne

theorem FrameEvent.waitSecondHalf_ends {s t : State} {d : DemodRsp} (he : FrameEvent s t) (hp : s.phase = .pFsm d)
    (hf : s.fsm = .waitSecondHalf) (hne : t.phase ≠ s.phase) :
    t.fsm ≠ .waitSecondHalf ∨ t.phase = .pRepairWait d := by
  cases he with
  | outside hstays _ => exact absurd hp (hstays.resolve_left hne d)
  | stepped d' sched hp' e =>
    obtain rfl : d' = d := by simpa [hp] using hp'.symm
    subst e
    exact fsmStep_of_waitSecondHalf_ends hf
  | repaired d' hp' _ _ _ _ => simp [hp] at hp'

/-- A phase of COMPLETE_FRAME is entered by the state machine step with both halves, or by the repair's answer. -/
theorem FrameEvent.frame_entered {s t : State} {d : DemodRsp} (he : FrameEvent s t) (h : frameRsp t.phase = some d)
    (hne : t.phase ≠ s.phase) :
    (t.phase = .pRepairWait d ∧ s.phase = .pFsm d ∧ s.fsm = .waitSecondHalf ∧ d.lock = true ∧ d.sync = true) ∨
    (t.phase = .pDecodeWait d ∧ s.phase = .pRepairWait d) := by
  cases he with
  | outside _ ho => simp [ho.phase.resolve_left hne] at h
  | stepped d' sched hp e =>
    subst e
    obtain ⟨hq, hf, hl, hs⟩ := fsmStep_enters_frame h
    obtain rfl : d' = d := by simpa [hq, frameRsp] using h
    exact .inl ⟨hq, hp, hf, hl, hs⟩
  | repaired d' hp hq _ _ _ =>
    obtain rfl : d' = d := by simpa [hq, frameRsp] using h
    exact .inr ⟨hq, hp⟩

theorem FrameEvent.decCnt_changed {s t : State} (he : FrameEvent s t) (hne : t.decCnt ≠ s.decCnt) :
    s.phase = .cReset ∨ s.phase = .pAccept ∨ ∃ d, s.phase = .pDecodeWait d := by
  cases he with
  | outside _ ho => exact ho.decCnt.resolve_left hne
  | stepped d sched _ e => exact absurd (by simp [e]) hne
  | repaired d _ _ _ hc _ => exact absurd hc hne

theorem FrameEvent.request_of_phase {s t : State} {m : Packet} (he : FrameEvent s t)
    (hout : t.adapterOut = s.adapterOut ++ [m]) : ∃ i, adapterInstr s = some i ∧ m = encode i := by
  have hnone : t.adapterOut ≠ s.adapterOut := by simp [hout]
  cases he with
  | outside _ ho =>
    obtain ⟨i, hi, e⟩ := ho.requests.resolve_left hnone
    exact ⟨i, hi, by simpa [e] using hout.symm⟩
  | stepped d sched _ e =>
    obtain ⟨hkept, -⟩ := adapterPorts_eq_iff.mp (fsmStep_adapterPorts d { s with schedule := sched })
    exact absurd (e ▸ hkept) hnone
  | repaired d _ _ _ _ ha => exact absurd ha hnone

/-- Settles O53: each clause holds of every event that a step can be. -/
theorem decodeOnlyAfterBothHalves : Obligations.DecodeOnlyAfterBothHalves := by
  intro s t hinv hstep
  have he := step_frameEvent hstep
  refine ⟨he.waitSecondHalf_entered hinv, fun d => he.waitSecondHalf_ends, fun d hq hne => ?_, fun d hq hne => ?_,
    he.decCnt_changed, fun m hout hop => ?_⟩
  · obtain ⟨-, hstart⟩ | ⟨hq', -⟩ := he.frame_entered (d := d) (by rw [hq, frameRsp]) hne
    · exact hstart
    · simp [hq] at hq'
  · obtain ⟨hq', -⟩ | ⟨-, hstart⟩ := he.frame_entered (d := d) (by rw [hq, frameRsp]) hne
    · simp [hq] at hq'
    · exact hstart
  · obtain ⟨i, hi, rfl⟩ := he.request_of_phase hout
    exact phase_of_decDecode_request hi hop

end Sys2Proof.Machine
end

section
/-! PROOF. The parts of the cadence loop one by one (rules R171 to R188): the loop test, the hand-off to the
demodulator, the consume with its validity test and the publication, each read off what its phase's operation can do;
and the only writers of `SNAP`, read off the moves of an agent. -/

namespace Sys2Proof.Machine

/-! ### The loop test (rule R171) -/

/-- Settles O32: the two cases of the loop test. -/
theorem loopRunsWhileFilled : Obligations.LoopRunsWhileFilled := by
  intro p s hp
  have hexec : exec (.push p) s = .next (pushLoopTest s) := by simp only [exec, execPush, hp]
  rw [hexec]
  obtain ⟨hle, e⟩ | ⟨hlt, e⟩ := pushLoopTest_cases s <;> rw [e]
  · exact ⟨fun _ => rfl, fun hlt => by omega⟩
  · exact ⟨fun hle => by omega, fun _ => rfl⟩

/-! ### The hand-off (rule R173) -/

/-- A count of 16 bits stands below the opcode in DEMOD_REQ's header (rule R85). -/
theorem demodReqHeader_eq_or {n : Nat} (h : n ≤ 65535) :
    (0x11#8 ++ 0#8 ++ BitVec.ofNat 16 n : Word) = 0x11000000#32 ||| BitVec.ofNat 32 n := by
  have h16 : n % 2 ^ 16 = n := Nat.mod_eq_of_lt (by omega)
  have h32 : n % 2 ^ 32 = n := Nat.mod_eq_of_lt (by omega)
  apply BitVec.eq_of_toNat_eq
  rw [BitVec.toNat_append, BitVec.toNat_or, BitVec.toNat_ofNat n 16, BitVec.toNat_ofNat n 32, h16, h32]
  rfl

/-- Settles O22: the step is the request's issue, and FRONT reads the oldest samples. -/
theorem demodReqHandsOverOldestSamples : Obligations.DemodReqHandsOverOldestSamples := by
  intro s hp ha hstatus hsched _ hle hbound
  have hreq : adapterInstr s = some (.demodReq (BitVec.ofNat 16 s.r) (ringFront s.cfg.inCap s.inBuf s.r)) := by
    rw [adapterInstr, hp]
  rw [step_of_quiet hsched hstatus, sequencerStep_eq_adapter hreq, exec_demodReq_issue _ _ ha, ringFront_eq_take hle,
    issue, encode, demodReqHeader_eq_or hbound]

/-! ### The consume phase (rules R174 to R177) -/

/-- The model's validity test is the spec's (rule R175). -/
theorem responseValid_iff {c : Config} {d : DemodRsp} : responseValid c d = true ↔
    d.valid = true ∧ c.ninMin ≤ d.nextR.toNat ∧ d.nextR.toNat ≤ c.ninMax := by
  simp [responseValid, and_assoc]

theorem responseValid_eq_false_iff {c : Config} {d : DemodRsp} : responseValid c d = false ↔
    d.valid = false ∨ d.nextR.toNat < c.ninMin ∨ c.ninMax < d.nextR.toNat := by
  rw [← Bool.not_eq_true, responseValid_iff]
  simp only [Decidable.not_and_iff_or_not, Bool.not_eq_true, Nat.not_le]

/-- Settles O33: the consume drops the `r` oldest samples, and the validity test decides the rest. -/
theorem consumeThenValidity : Obligations.ConsumeThenValidity := by
  intro p s d hp hle hin hout
  have hexec : exec (.push p) s = .next (pushConsume d s) := by simp only [exec, execPush, hp]
  rw [← responseValid_iff, ← responseValid_eq_false_iff]
  obtain ⟨hv, e⟩ | ⟨hv, e⟩ := pushConsume_of_le d hin hout hle <;> rw [e] at hexec <;>
    refine ⟨_, hexec, ringContents_ringSkip _ _ _, rfl, ?_⟩
  · exact ⟨fun _ => rfl, fun hinvalid => by simp [hv] at hinvalid⟩
  · exact ⟨fun hvalid => by simp [hv] at hvalid, fun _ => rfl⟩

/-! ### The publication (rules R185 and R188) -/

/-- Settles O38: PUSH's arm in the phase, with the sequence number's increment on numbers. -/
theorem publishWritesWholeSnapshot : Obligations.PublishWritesWholeSnapshot := by
  intro p s d hp
  have hexec : exec (.push p) s = .next (pushPublish d s) := by simp only [exec, execPush, hp]
  have hseq : BitVec.ofNat 32 ((s.snap.seq.toNat + 1) % 2 ^ 32) = s.snap.seq + 1#32 := by
    bv_omega
  rw [hexec, hseq]
  rfl

/-! ### `SNAP`: what every other operation leaves (rule R186) -/

@[simp] theorem createCheck_snap (s : State) : (createCheck s).snap = s.snap := by
  obtain ⟨_, e⟩ | ⟨k, _, e⟩ := createCheck_cases s <;> rw [e]
  rfl

@[simp] theorem pushAccept_snap (s : State) : (pushAccept s).snap = s.snap := by
  obtain ⟨_, e⟩ | ⟨_, _, e⟩ | ⟨_, _, e⟩ := pushAccept_cases s <;> rw [e]
  · rfl
  · rfl

@[simp] theorem pushAppend_snap (p : List Sample) (s : State) : (pushAppend p s).snap = s.snap := by
  unfold pushAppend afterBufferOp
  split <;> rfl

@[simp] theorem pushLoopTest_snap (s : State) : (pushLoopTest s).snap = s.snap := by
  obtain ⟨_, e⟩ | ⟨_, e⟩ := pushLoopTest_cases s <;> rw [e]

@[simp] theorem pushConsume_snap (d : DemodRsp) (s : State) : (pushConsume d s).snap = s.snap := by
  obtain ⟨_, e⟩ | ⟨_, ⟨_, e⟩ | ⟨_, e⟩ | ⟨_, e⟩⟩ := pushConsume_cases d s <;> rw [e]
  · rfl
  · rfl
  · rfl

@[simp] theorem stepUnsynced_snap (d : DemodRsp) (s : State) : (stepUnsynced d s).snap = s.snap := by
  unfold stepUnsynced
  split
  · dsimp only
    split <;> rfl
  · rfl

@[simp] theorem fsmStep_snap (d : DemodRsp) (s : State) : (fsmStep d s).snap = s.snap := by
  unfold fsmStep
  split
  · exact stepUnsynced_snap d s
  · obtain ⟨_, e⟩ | ⟨_, _, e⟩ | ⟨_, _, e⟩ := stepWaitFirst_cases d s <;> rw [e] <;> rfl
  · obtain ⟨_, e⟩ | ⟨_, _, e⟩ | ⟨_, _, e⟩ := stepWaitSecond_cases d s <;> rw [e]
    · rfl
    · rfl

@[simp] theorem finishFrame_snap (audio : Option (List Sample)) (d : DemodRsp) (s : State) :
    (finishFrame audio d s).snap = s.snap := by
  unfold finishFrame
  split
  · rfl
  · split
    · dsimp only
      split <;> rfl
    · rfl

@[simp] theorem pushDrain_snap (s : State) : (pushDrain s).snap = s.snap := by
  unfold pushDrain
  split
  · dsimp only
    split <;> rfl
  · split <;> rfl

@[simp] theorem demodInitAnswer_snap (ok : Bool) (s : State) : (demodInitAnswer ok s).snap = s.snap := by
  cases ok <;> rfl

@[simp] theorem decInitAnswer_snap (ok : Bool) (s : State) : (decInitAnswer ok s).snap = s.snap := by
  cases ok <;> rfl

@[simp] theorem demodReqAnswer_snap (d : DemodRsp) (s : State) : (demodReqAnswer d s).snap = s.snap := rfl

@[simp] theorem decDecodeIssue_snap (bytes : List Byte) (s : State) : (decDecodeIssue bytes s).snap = s.snap := by
  unfold decDecodeIssue
  split <;> rfl

/-- The two writes of `SNAP`: CREATE's reset zeroes it, and a publication raises `seq` and copies `fsm`. -/
def WritesSnapshot (s t : State) : Prop :=
  (s.phase = .cReset ∧ t.phase = .cCheck ∧ t.snap = Snapshot.zero s.cfg) ∨
  (∃ d, s.phase = .pPublish d ∧ t.phase = .pLoopTest ∧ t.snap.seq = s.snap.seq + 1#32 ∧ t.snap.fsmPub = s.fsm)

theorem Moves.snap_writer {s t : State} (hm : Moves s t) (hne : t.snap ≠ s.snap) : WritesSnapshot s t := by
  cases hm with
  | reset hp _ => exact .inl ⟨hp, rfl, rfl⟩
  | publish p d hp _ => exact .inr ⟨d, hp, rfl, rfl, rfl⟩
  | _ => simp at hne

/-- Settles O49: taking an entry off the schedule changes neither `SNAP` nor what a writer reads. -/
theorem snapshotWriters : Obligations.SnapshotWriters := by
  intro s t hstep hne
  obtain ⟨u, rfl | ⟨sched, rfl⟩, hm⟩ := step_moves hstep
  · exact hm.snap_writer hne
  · exact hm.snap_writer hne

end Sys2Proof.Machine
end

section
/-! PROOF. An accepted PUSH completes in a bounded number of steps (rules R179 and R180). A PUSH's run is bounded by the
answers its pseudocode takes, so the claim is one about sequences: with `K` well-formed demodulator answers and `K`
well-formed pairs of decoder answers at hand, the pseudocode of a PUSH that holds fewer than `NIN_MIN * (K + 1)` samples
ends, because every iteration takes one answer, at most one pair, and at least `NIN_MIN` samples. -/

namespace Sys2Proof.Machine

/-! ### The answers at hand -/

/-- The first `m` answers of the demodulator are there and well formed. -/
def DemodAnswers (c : Config) (m : Nat) (ys : List Reply) : Prop :=
  m ≤ ys.length ∧ ∀ y ∈ ys.take m, (parseDemod c y).isSome = true

/-- The decoder's answers begin with `m` well-formed pairs, each the repaired bits and then the audio of one frame. -/
def FrameAnswers (c : Config) (m : Nat) (ys : List Reply) : Prop :=
  ∀ j, j < m → ∃ y z, ys[2 * j]? = some y ∧ ys[2 * j + 1]? = some z ∧
    (parseRepair c y).isSome = true ∧ (parseDecode c z).isSome = true

theorem DemodAnswers.succ {c : Config} {m : Nat} {ys : List Reply} (h : DemodAnswers c (m + 1) ys) :
    ∃ y rest d, ys = y :: rest ∧ parseDemod c y = some d ∧ DemodAnswers c m rest := by
  obtain ⟨hlen, hall⟩ := h
  cases ys with
  | nil => simp at hlen
  | cons y rest =>
    obtain ⟨d, hd⟩ := Option.isSome_iff_exists.mp (hall y (by simp))
    exact ⟨y, rest, d, rfl, hd, by simpa using hlen, fun z hz => hall z (by simp [hz])⟩

theorem FrameAnswers.weaken {c : Config} {m : Nat} {ys : List Reply} (h : FrameAnswers c (m + 1) ys) :
    FrameAnswers c m ys :=
  fun j hj => h j (by omega)

theorem FrameAnswers.succ {c : Config} {m : Nat} {ys : List Reply} (h : FrameAnswers c (m + 1) ys) :
    ∃ y z rest repaired audio, ys = y :: z :: rest ∧ parseRepair c y = some repaired ∧
      parseDecode c z = some audio ∧ FrameAnswers c m rest := by
  obtain ⟨y, z, hy, hz, hrepair, hdecode⟩ := h 0 (by omega)
  match ys, hy, hz with
  | y :: z :: rest, rfl, rfl =>
    obtain ⟨repaired, hr⟩ := Option.isSome_iff_exists.mp hrepair
    obtain ⟨audio, ha⟩ := Option.isSome_iff_exists.mp hdecode
    exact ⟨y, z, rest, repaired, audio, rfl, hr, ha, fun j hj => h (j + 1) (by omega)⟩

/-! ### One iteration (rules R172 to R178) -/

/-- The session's part that bounds the loop: the next request's count and the samples held. -/
def held (a : Session) : Nat × List Sample := (a.r, a.input)

theorem pourOut_held (c : Config) (v : List Sample) (drop : Event) (a : Session) :
    held (pourOut c v drop a) = held a := by
  unfold pourOut
  split <;> rfl

theorem completeFrame_held (c : Config) (repaired : List Bool) (audio : Option (List Sample)) (a : Session) :
    held (completeFrame c repaired audio a) = held a := by
  cases audio with
  | none => rfl
  | some v => exact pourOut_held c v .frameDrop _

/-- A state machine step with a pair of decoder answers at hand ends, takes at most that pair, leaves `IN` and `r`. -/
theorem fsmPass_ends {c : Config} {m : Nat} (d : DemodRsp) (a : Session) {dec : List Reply}
    (h : FrameAnswers c (m + 1) dec) :
    ∃ a' dec', fsmPass c d a dec = some (a', dec') ∧ held a' = held a ∧ FrameAnswers c m dec' := by
  cases hf : a.fsm with
  | unsynced =>
    simp only [fsmPass, hf]
    exact ⟨_, _, rfl, pourOut_held c (zeros c.nNom) .silDrop a, h.weaken⟩
  | waitFirstHalf =>
    simp only [fsmPass, hf]
    cases d.lock <;> cases d.sync <;> exact ⟨_, _, rfl, rfl, h.weaken⟩
  | waitSecondHalf =>
    obtain ⟨y, z, rest, repaired, audio, rfl, hr, ha, hrest⟩ := h.succ
    simp only [fsmPass, hf, hr, ha]
    cases d.lock with
    | false => exact ⟨_, _, rfl, rfl, h.weaken⟩
    | true =>
      cases d.sync with
      | false => exact ⟨_, _, rfl, rfl, h.weaken⟩
      | true => exact ⟨_, _, rfl, completeFrame_held c repaired audio _, hrest⟩

/-- An invalid response ends the iteration with its flag (rule R177). -/
theorem iterationPass_of_invalid {c : Config} {d : DemodRsp} (a : Session) (dec : List Reply)
    (hv : responseValid c d = false) :
    iterationPass c d a dec = some ({ consumed a with flags := (consumed a).flags ||| eventBit .demodFail }, dec) := by
  simp only [iterationPass, hv, Bool.false_eq_true, if_false]
  rfl

/-- A valid response sets `r`, takes the state machine step and publishes (rule R172). -/
theorem iterationPass_of_valid {c : Config} {d : DemodRsp} {a a' : Session} {dec dec' : List Reply}
    (hv : responseValid c d = true)
    (h : fsmPass c d { consumed a with r := d.nextR.toNat } dec = some (a', dec')) :
    iterationPass c d a dec = some ({ a' with snap := publishedSnapshot d a'.fsm a'.snap }, dec') := by
  simp only [consumed] at h
  simp only [iterationPass, hv, if_true, h]

/-- An iteration with a pair of decoder answers at hand ends with its `r` samples consumed and a request of at least
`NIN_MIN` next. -/
theorem iterationPass_ends {c : Config} {m : Nat} (d : DemodRsp) {a : Session} {dec : List Reply}
    (h : FrameAnswers c (m + 1) dec) (hr : c.ninMin ≤ a.r) :
    ∃ a' dec', iterationPass c d a dec = some (a', dec') ∧ a'.input = a.input.drop a.r ∧ c.ninMin ≤ a'.r ∧
      FrameAnswers c m dec' := by
  cases hv : responseValid c d with
  | false => exact ⟨_, _, iterationPass_of_invalid a dec hv, rfl, hr, h.weaken⟩
  | true =>
    obtain ⟨hmin, -⟩ := responseValid_range hv
    obtain ⟨a', dec', e, hheld, hrest⟩ := fsmPass_ends d { consumed a with r := d.nextR.toNat } h
    obtain ⟨hr', hinput⟩ : a'.r = d.nextR.toNat ∧ a'.input = a.input.drop a.r := Prod.mk.inj hheld
    exact ⟨_, _, iterationPass_of_valid hv e, hinput, hmin.trans hr'.ge, hrest⟩

/-! ### The loop and the whole PUSH -/

/-- Fewer than `r` samples end the loop, whatever the fuel (rule R171). -/
theorem cadencePass_of_lt {c : Config} (n : Nat) {a : Session} (demod dec : List Reply) (h : a.input.length < a.r) :
    cadencePass c n a demod dec = some (a, demod, dec) := by
  cases n <;> exact if_pos h

/-- With `r` samples held the loop takes an answer, iterates and goes on (rule R171). -/
theorem cadencePass_of_le {c : Config} (n : Nat) {a a1 : Session} {y : Reply} {d : DemodRsp}
    {demod dec dec1 : List Reply} (h : a.r ≤ a.input.length) (hd : parseDemod c y = some d)
    (hiter : iterationPass c d a dec = some (a1, dec1)) :
    cadencePass c (n + 1) a (y :: demod) dec = cadencePass c n a1 demod dec1 := by
  rw [cadencePass, if_neg (by omega)]
  simp only [hd, hiter]

/-- The loop ends and takes at most `m` demodulator answers when it holds fewer than `NIN_MIN * (m + 1)` samples: each
iteration removes at least `NIN_MIN` of them (rule R179). -/
theorem cadencePass_ends {c : Config} {m n : Nat} {a : Session} {demod dec : List Reply} (hmin : 1 ≤ c.ninMin)
    (hr : c.ninMin ≤ a.r) (hfuel : a.input.length ≤ n) (hheld : a.input.length < c.ninMin * (m + 1))
    (hdemod : DemodAnswers c m demod) (hdec : FrameAnswers c m dec) :
    ∃ a' demod' dec', cadencePass c n a demod dec = some (a', demod', dec') ∧
      demod.length ≤ demod'.length + m := by
  induction m generalizing n a demod dec with
  | zero => exact ⟨a, demod, dec, cadencePass_of_lt n demod dec (by omega), Nat.le_refl _⟩
  | succ m ih =>
    obtain hlt | hle := Nat.lt_or_ge a.input.length a.r
    · exact ⟨a, demod, dec, cadencePass_of_lt n demod dec hlt, by omega⟩
    · obtain ⟨n, rfl⟩ : ∃ n', n = n' + 1 := ⟨n - 1, by omega⟩
      obtain ⟨y, rest, d, rfl, hd, hrest⟩ := hdemod.succ
      obtain ⟨a1, dec1, hiter, hinput, hr1, hdec1⟩ := iterationPass_ends d hdec hr
      have hlen : a1.input.length = a.input.length - a.r := by rw [hinput, List.length_drop]
      rw [Nat.mul_succ] at hheld
      obtain ⟨a', demod', dec', hloop, hused⟩ := ih (n := n) hr1 (by omega) (by omega) hrest hdec1
      exact ⟨a', demod', dec', (cadencePass_of_le n hle hd hiter).trans hloop, by rw [List.length_cons]; omega⟩

/-- The drain answers AUDIO with `N_DRAIN` samples, or NO_OUTPUT_YET with none (rule R215). -/
theorem drainPass_response (c : Config) (a : Session) :
    opField (drainPass c a).2.word = 0x01#8 ∧ (drainPass c a).2.payload.length = c.nDrain ∨
      opField (drainPass c a).2.word = 0x02#8 ∧ (drainPass c a).2.payload = [] := by
  unfold drainPass
  split
  · exact .inl ⟨opField_responseWord .audio _ _ _, List.length_take_of_le ‹_›⟩
  · exact .inr ⟨opField_responseWord .noOutputYet _ _ _, rfl⟩

/-- The pseudocode's PUSH is its loop, if that ends, and then its drain. -/
theorem pushPass_of_cadencePass {c : Config} {p : List Sample} {a a1 : Session} {demod dec demod' dec' : List Reply}
    (h : cadencePass c (accepted p a).input.length (accepted p a) demod dec = some (a1, demod', dec')) :
    pushPass c p a demod dec = some ((drainPass c a1).1, (drainPass c a1).2, demod', dec') := by
  simp only [accepted] at h
  simp only [pushPass, h]

/-- After its append a PUSH to a READY session holds at most `NIN_MAX - 1 + N_PUSH` samples (rules R180 and R181). -/
theorem InPush.accepted_length {p : List Sample} {s : State} (h : InPush p s) (hp : s.phase = .idle)
    (hready : s.sess = .ready) :
    (accepted p (sessionOf s)).input.length ≤ s.cfg.ninMax - 1 + s.cfg.nPush := by
  obtain ⟨-, hended⟩ : s.awaiting = false ∧ (s.sess = .ready → LoopEnded s) := h.inv.phaseOk_at hp
  have hlt : s.inBuf.occ < s.r := hended hready
  obtain ⟨-, hmax⟩ := h.inv.requestRange (h.inv.readyConfig hready)
  have hlen : (accepted p (sessionOf s)).input.length = s.inBuf.occ + p.length := by simp [accepted, sessionOf]
  rw [hlen, PushAt_length h.command]
  omega

/-- Settles O60: the pseudocode ends within its answers, and the block's run is bounded by the answers taken. -/
theorem pushCompletesInBoundedSteps : Obligations.PushCompletesInBoundedSteps := by
  intro s p rest k hi hpush hk hcount hdemod _ hdec
  have hready := hpush.ready
  have hcfg := hi.readyConfig hready
  obtain ⟨hmin, -⟩ := configOk_requestRange hcfg
  obtain ⟨hr, -⟩ := hi.requestRange hcfg
  have hheld : (accepted p (sessionOf s)).input.length < s.cfg.ninMin * (k + 1) := by
    rw [hk]
    exact ((hpush.inPush hi).accepted_length hpush.idle hready).trans_lt (Nat.lt_mul_div_succ _ hmin)
  obtain ⟨a, demod, dec, hloop, hused⟩ := cadencePass_ends hmin hr (Nat.le_refl _) hheld ⟨hcount, hdemod⟩ hdec
  obtain ⟨n, t, hn, hrun, -, hhost, hcmd, hst⟩ := push_run hi hpush (pushPass_of_cadencePass hloop)
  exact ⟨n, t, _, by omega, hrun, hst.phase, hhost, hcmd, by rw [hst.demodIn]; exact hused, drainPass_response _ a⟩

end Sys2Proof.Machine
end

section
/-! PROOF. CREATE (rules R202 to R208 and R295). Each phase of CREATE is one lemma about one step, and a CREATE that
ends READY is the chain of them: its acceptance, reset and check, the two steps of each initialisation, and the delivery
of its response. -/

namespace Sys2Proof.Machine

/-! ### CREATE's own phases (rules R203 and R205) -/

/-- Settles O17: CREATE's arm in C_RESET, the two buffers cleared. -/
theorem createResetsState : Obligations.CreateResetsState := by
  intro s hp
  have hexec : exec .create s = .next { resetState s with phase := .cCheck } := by simp only [exec, execCreate, hp]
  exact ⟨_, hexec, rfl, rfl, rfl, rfl, rfl, rfl, rfl, rfl, rfl, rfl, rfl, rfl, rfl, rfl⟩

/-- The check reported is the one of K1 to K9 that fails while every earlier one holds (rule R205). -/
theorem firstFailingCheck_eq_some_iff {c : Config} {k : Nat} : firstFailingCheck c = some k ↔
    ¬ CheckHolds c k ∧ (1 ≤ k ∧ k ≤ 9) ∧ ∀ j, 1 ≤ j → j < k → CheckHolds c j := by
  have hrange : firstFailingCheck c = (List.range' 1 9).find? fun j => !configCheck c j := rfl
  rw [hrange, List.find?_range'_eq_some]
  simp [← configCheck_iff, Nat.lt_succ_iff]

/-- C_CHECK is one step of CREATE (rule R202). -/
theorem exec_create_of_cCheck {s : State} (hp : s.phase = .cCheck) : exec .create s = .next (createCheck s) := by
  simp only [exec, execCreate, hp]

/-- With K1 to K9 holding, CREATE goes on to its first adapter (rules R205 and R206). -/
theorem exec_create_of_configOk {s : State} (hp : s.phase = .cCheck) (hcfg : ConfigOk s.cfg) :
    exec .create s = .next { s with phase := .cDemodInit } := by
  rw [exec_create_of_cCheck hp, createCheck, hcfg]

/-- CONFIG_FAULT with the check's number in field B (rules R76, R77 and R205). -/
theorem responseWord_configFault {k : Nat} (h1 : 1 ≤ k) (h9 : k ≤ 9) :
    responseWord .configFault 0#8 0#8 (BitVec.ofNat 8 k) = 0x04000000#32 ||| BitVec.ofNat 32 k := by
  interval_cases k <;> rfl

/-- Settles O18: the reported check is the first that fails, and with none CREATE goes on. -/
theorem createReportsFirstFailingCheck : Obligations.CreateReportsFirstFailingCheck := by
  intro s hp
  refine ⟨fun k h1 h9 hfails hbefore => ?_,
    fun hall => exec_create_of_configOk hp ((configOk_iff s.cfg).mpr hall)⟩
  have hfirst : firstFailingCheck s.cfg = some k := firstFailingCheck_eq_some_iff.mpr ⟨hfails, ⟨h1, h9⟩, hbefore⟩
  simp only [exec_create_of_cCheck hp, createCheck, hfirst, respond, responseWord_configFault h1 h9]

/-! ### The two initialisations (rules R85, R87, R206 and R207) -/

theorem exec_demodInit_issue {s : State} (ha : s.awaiting = false) :
    exec .demodInit s = .next (issue .demodInit s) := if_pos ha

theorem exec_decInit_issue {s : State} (ha : s.awaiting = false) :
    exec .decInit s = .next (issue .decInit s) := if_pos ha

theorem exec_demodInit_answer {s : State} {w : Word} {rest : List Reply} (ha : s.awaiting = true)
    (hin : s.demodIn = { words := [w] } :: rest) :
    exec .demodInit s = .next (demodInitAnswer (w.getLsbD 0) (takeDemod rest s)) := by
  simp only [exec, execDemodInit, ha, hin, parseInit, replyBit0, Bool.true_eq_false, if_false]

theorem exec_decInit_answer {s : State} {w : Word} {rest : List Reply} (ha : s.awaiting = true)
    (hin : s.decIn = { words := [w] } :: rest) :
    exec .decInit s = .next (decInitAnswer (w.getLsbD 0) (takeDec rest s)) := by
  simp only [exec, execDecInit, ha, hin, parseInit, replyBit0, Bool.true_eq_false, if_false]

/-- Settles O20: the issue, and the two answers by their bit 0. -/
theorem demodInitCompletes : Obligations.DemodInitCompletes := by
  refine fun s _ => ⟨exec_demodInit_issue, fun w rest ha hin => ?_⟩
  rw [exec_demodInit_answer ha hin]
  exact ⟨fun hok => by rw [hok]; rfl, fun hok => by rw [hok]; rfl⟩

/-- Settles O21: the issue, and the two answers by their bit 0. -/
theorem decInitCompletes : Obligations.DecInitCompletes := by
  refine fun s _ => ⟨exec_decInit_issue, fun w rest ha hin => ?_⟩
  rw [exec_decInit_answer ha hin]
  exact ⟨fun hok => by rw [hok]; rfl, fun hok => by rw [hok]; rfl⟩

/-! ### A whole CREATE (rules R202, R208 and R295) -/

/-- A CREATE is at the port, and the sequencer runs alone. -/
structure InCreate (s : State) : Prop where
  command : CreateAt s
  quiet : s.statusIn = [] ∧ s.schedule = []

/-- In a phase without an adapter request a step is CREATE's own arm (rule R202). -/
theorem InCreate.step_eq {s : State} (h : InCreate s) (ha : adapterInstr s = none) : step s = exec .create s := by
  obtain ⟨hstatus, hsched⟩ := h.quiet
  obtain ⟨m, rest, hm, hi⟩ := h.command
  rw [step_of_quiet hsched hstatus, sequencerStep_eq_command ha hm hi]

theorem InCreate.step_eq_adapter {s : State} {i : Instr} (h : InCreate s) (hi : adapterInstr s = some i) :
    step s = exec i s := by
  obtain ⟨hstatus, hsched⟩ := h.quiet
  rw [step_of_quiet hsched hstatus, sequencerStep_eq_adapter hi]

/-- The acceptance, the reset and a check that passes. -/
theorem InCreate.run_checked {s : State} (h : InCreate s) (hp : s.phase = .idle) (hcfg : ConfigOk s.cfg) :
    Host.Core.run Sys2Proof.core 3 s = .next { resetState s with phase := .cDemodInit } := by
  have haccept : step s = .next { s with phase := .cReset } := by
    rw [h.step_eq (by rw [adapterInstr, hp])]
    simp only [exec, execCreate, hp]
  have hreset : step { s with phase := .cReset } = .next { resetState s with phase := .cCheck } :=
    InCreate.step_eq ⟨h.command, h.quiet⟩ rfl
  have hcheck : step { resetState s with phase := .cCheck } = .next { resetState s with phase := .cDemodInit } :=
    (InCreate.step_eq (s := { resetState s with phase := .cCheck }) ⟨h.command, h.quiet⟩ rfl).trans
      (exec_create_of_configOk rfl hcfg)
  exact run_succ_eq_next.mpr ⟨_, haccept, run_succ_eq_next.mpr ⟨_, hreset, run_succ_eq_next.mpr ⟨_, hcheck, rfl⟩⟩⟩

/-- An adapter request is two steps, its issue and its answer (rules R63 and R305). -/
theorem InCreate.run_request {s t : State} {i : Instr} (h : InCreate s) (hreq : adapterInstr s = some i)
    (hissue : exec i s = .next (issue i s)) (hanswer : exec i (issue i s) = .next t) :
    Host.Core.run Sys2Proof.core 2 s = .next t := by
  have hfirst : step s = .next (issue i s) := (h.step_eq_adapter hreq).trans hissue
  have hsecond : step (issue i s) = .next t :=
    (InCreate.step_eq_adapter (s := issue i s) ⟨h.command, h.quiet⟩ hreq).trans hanswer
  exact run_succ_eq_next.mpr ⟨_, hfirst, run_succ_eq_next.mpr ⟨_, hsecond, rfl⟩⟩

/-- DEMOD_INIT goes out and is answered `ok = 1` (rule R206). -/
theorem InCreate.run_demodInit {s : State} {w : Word} {rest : List Reply} (h : InCreate s) (hp : s.phase = .cDemodInit)
    (ha : s.awaiting = false) (hin : s.demodIn = { words := [w] } :: rest) (hok : w.getLsbD 0 = true) :
    Host.Core.run Sys2Proof.core 2 s = .next (demodInitAnswer true (takeDemod rest (issue .demodInit s))) := by
  have hreq : adapterInstr s = some .demodInit := by rw [adapterInstr, hp]
  rw [← hok]
  exact h.run_request hreq (exec_demodInit_issue ha) (exec_demodInit_answer rfl hin)

/-- DEC_INIT goes out and is answered `ok = 1` (rule R207). -/
theorem InCreate.run_decInit {s : State} {w : Word} {rest : List Reply} (h : InCreate s) (hp : s.phase = .cDecInit)
    (ha : s.awaiting = false) (hin : s.decIn = { words := [w] } :: rest) (hok : w.getLsbD 0 = true) :
    Host.Core.run Sys2Proof.core 2 s = .next (decInitAnswer true (takeDec rest (issue .decInit s))) := by
  have hreq : adapterInstr s = some .decInit := by rw [adapterInstr, hp]
  rw [← hok]
  exact h.run_request hreq (exec_decInit_issue ha) (exec_decInit_answer rfl hin)

theorem InCreate.run_deliver {s : State} {rsp : Response} (h : InCreate s) (hp : s.phase = .respond rsp) :
    Host.Core.run Sys2Proof.core 1 s = .next (deliver rsp s) := by
  obtain ⟨-, -, hrespond⟩ := createAcceptedAndDelivered s
  exact run_succ_eq_next.mpr ⟨_, (h.step_eq (by rw [adapterInstr, hp])).trans (hrespond rsp hp), rfl⟩

/-- Settles O19: the four parts of the run, none of which touches what keeps the CREATE running alone. -/
theorem createRunsToReady : Obligations.CreateRunsToReady := by
  intro s rest wd wc ys zs hp ha hstatus hsched hcmd hchecks hdemod hwd hdec hwc
  have h : InCreate s := ⟨⟨_, rest, hcmd, decode_encode (i := .create) rfl⟩, hstatus, hsched⟩
  have hchecked := h.run_checked hp ((configOk_iff s.cfg).mpr hchecks)
  have hdemodInit := run_add hchecked (InCreate.run_demodInit ⟨h.command, h.quiet⟩ rfl ha hdemod hwd)
  have hdecInit := run_add hdemodInit (InCreate.run_decInit ⟨h.command, h.quiet⟩ rfl rfl hdec hwc)
  have hdeliver := run_add hdecInit (InCreate.run_deliver ⟨h.command, h.quiet⟩ rfl)
  have hcmdIn : rest = s.cmdIn.tail := by rw [hcmd, List.tail_cons]
  have hrequests : s.adapterOut ++ [{ header := 0x10000000#32 }, { header := 0x20000000#32 }] =
      s.adapterOut ++ [encode .demodInit] ++ [encode .decInit] := by rw [List.append_assoc]; rfl
  refine ⟨_, hdeliver, ?_, rfl, rfl, rfl, rfl⟩
  rw [hp, ha, hrequests, hcmdIn]
  rfl

end Sys2Proof.Machine
end

section
/-! PROOF. The commands that are refused and the PUSH that is accepted (rules R75, R211 to R213, R220 and R222), the two
codes that no run answers (rules R212 and R262), and the command that stays at its port until its one response leaves
(rules R200 and R221). -/

namespace Sys2Proof

/-! ### Illegal commands (rules R75 and R220) -/

/-- The packets that CREATE and a PUSH of `N_PUSH` samples are carried in are legal (rules R72 to R74). -/
theorem not_illegalCommand_encode {c : Config} {i : Instr} (hport : i.port = .command) (hwf : i.WellFormed c) :
    ¬ Machine.IllegalCommand c (encode i) := by
  cases i with
  | create => simp [Machine.IllegalCommand, encode]
  | push samples =>
    have hlen : samples.length = c.nPush := by simpa [Instr.WellFormed, Instr.wellFormed] using hwf
    simp [Machine.IllegalCommand, encode, hlen]
  | _ => cases hport

/-- The decoder accepts only packets that carry a command, so it rejects an illegal one. -/
theorem decode_error_of_illegalCommand {c : Config} {m : Packet} (h : Machine.IllegalCommand c m) :
    ∃ e, decode .command c m = .error e := by
  cases hdecode : decode .command c m with
  | error e => exact ⟨e, rfl⟩
  | ok i =>
    obtain ⟨hport, hwf, rfl⟩ := carries_of_decode hdecode
    exact absurd h (not_illegalCommand_encode hport hwf)

end Sys2Proof

namespace Sys2Proof.Machine

/-- A command that does not decode is answered as an illegal one (rule R220). -/
theorem sequencerStep_of_undecodable {s : State} {m : Packet} {rest : List Packet} {e : DecodeError}
    (ha : adapterInstr s = none) (hm : s.cmdIn = m :: rest) (he : decode .command s.cfg m = .error e) :
    sequencerStep s = .next (illegalCommand s) := by
  simp only [sequencerStep, ha, commandStep, hm, commandInstr, he]

/-- Settles O7: one step settles the response and the next delivers it. -/
theorem illegalCommandAnswered : Obligations.IllegalCommandAnswered := by
  intro s m rest hp hstatus hsched hm hillegal
  obtain ⟨e, he⟩ := decode_error_of_illegalCommand hillegal
  have hsettle : step s = .next (respond .illegalCommand 0#8 0#8 0#8 [] s) := by
    rw [step_of_quiet hsched hstatus, sequencerStep_of_undecodable (by rw [adapterInstr, hp]) hm he, illegalCommand, hp]
  have hdeliver : step (respond .illegalCommand 0#8 0#8 0#8 [] s) =
      .next (deliver { word := 0x07000000#32, payload := [] } (respond .illegalCommand 0#8 0#8 0#8 [] s)) :=
    (step_of_quiet (s := respond .illegalCommand 0#8 0#8 0#8 [] s) hsched hstatus).trans
      (sequencerStep_of_undecodable (s := respond .illegalCommand 0#8 0#8 0#8 [] s) rfl hm he)
  refine ⟨⟨e, he⟩, hsettle, run_succ_eq_next.mpr ⟨_, hsettle, run_succ_eq_next.mpr ⟨_, hdeliver, ?_⟩⟩⟩
  rw [show rest = s.cmdIn.tail by rw [hm, List.tail_cons], hp]
  rfl

/-! ### PUSH's guards and its append (rules R211 to R213 and R222) -/

theorem exec_push_of_pAccept (p : List Sample) {s : State} (hp : s.phase = .pAccept) :
    exec (.push p) s = .next (pushAccept s) := by
  simp only [exec, execPush, hp]

theorem pushAccept_of_not_ready {s : State} (h : s.sess ≠ .ready) :
    pushAccept s = respond .notReady 0#8 0#8 (0#6 ++ sessCode s.sess) [] s := if_pos h

theorem pushAccept_of_full {s : State} (hr : s.sess = .ready) (hfull : s.inBuf.occ + s.cfg.nPush > s.cfg.inCap) :
    pushAccept s = respond .backpressure 0#8 0#8 0#8 [] s := by
  rw [pushAccept, if_neg (not_not.mpr hr), if_pos hfull]

theorem pushAccept_of_fits {s : State} (hr : s.sess = .ready) (hfit : s.inBuf.occ + s.cfg.nPush ≤ s.cfg.inCap) :
    pushAccept s = { s with cmdFlags := 0#8, iterCnt := 0#8, decCnt := 0#8, phase := .pAppend } := by
  rw [pushAccept, if_neg (not_not.mpr hr), if_neg (Nat.not_lt.mpr hfit)]

/-- With both buffers in good form the append passes InternalFault check 2, and the loop is next (rules R213, R262). -/
theorem exec_push_of_pAppend (p : List Sample) {s : State} (hp : s.phase = .pAppend)
    (hin : ringWf s.cfg.inCap s.inBuf = true) (hout : ringWf s.cfg.outCap s.outBuf = true) :
    exec (.push p) s = .next { s with inBuf := (ringAppend s.cfg.inCap s.inBuf p).2, phase := .pLoopTest } := by
  have hocc : occupancyOk { s with inBuf := (ringAppend s.cfg.inCap s.inBuf p).2 } = true :=
    occupancyOk_of_wf (ringAppend_wf p hin) hout
  have hexec : exec (.push p) s = .next (pushAppend p s) := by simp only [exec, execPush, hp]
  rw [hexec, pushAppend, afterBufferOp_ok _ hocc]

/-- Settles O30: the three refusals, each with the word that its code and field B make. -/
theorem pushRefusalsChangeNothing : Obligations.PushRefusalsChangeNothing := by
  intro p s hp
  rw [exec_push_of_pAccept p hp]
  refine ⟨fun hs => ?_, fun hs => ?_, fun hr hfull => ?_⟩
  · rw [pushAccept_of_not_ready (by simp [hs]), respond, hs]
    rfl
  · rw [pushAccept_of_not_ready (by simp [hs]), respond, hs]
    rfl
  · rw [pushAccept_of_full hr hfull]
    rfl

/-- Settles O31: the guards pass, and the payload of `N_PUSH` samples fits. -/
theorem pushClearsAndAppends : Obligations.PushClearsAndAppends := by
  intro p s hp hr hfit hlen hin hout
  have haccept := exec_push_of_pAccept p hp
  rw [pushAccept_of_fits hr hfit] at haccept
  exact ⟨_, _, haccept, rfl, exec_push_of_pAppend p rfl hin hout, rfl, ringContents_ringAppend hin (hlen ▸ hfit)⟩

/-! ### What a settled response never says (rules R212 and R262) -/

/-- Settles O47: the invariant holds after the step, and its clause for RESPOND excludes both codes. -/
theorem noInternalFaultOrBackpressure : Obligations.NoInternalFaultOrBackpressure := by
  intro s t rsp h hstep hp
  have ht := stepKeepsInvariant s t h hstep
  obtain ⟨-, -, hback, hfault⟩ : t.awaiting = false ∧ (t.sess = .ready → LoopEnded t) ∧
    opField rsp.word ≠ codeValue .backpressure ∧ opField rsp.word ≠ codeValue .internalFault := ht.phaseOk_at hp
  exact ⟨hfault, hback⟩

/-! ### The command port and the host port (rules R200 and R221) -/

/-- What stands at the command port and what has left on the host port. -/
def hostPorts (s : State) : List Packet × List Response := (s.cmdIn, s.hostOut)

theorem createCheck_hostPorts (s : State) : hostPorts (createCheck s) = hostPorts s := by
  obtain ⟨_, e⟩ | ⟨k, _, e⟩ := createCheck_cases s <;> rw [e] <;> rfl

theorem pushAccept_hostPorts (s : State) : hostPorts (pushAccept s) = hostPorts s := by
  obtain ⟨_, e⟩ | ⟨_, _, e⟩ | ⟨_, _, e⟩ := pushAccept_cases s <;> rw [e] <;> rfl

theorem afterBufferOp_hostPorts (p : Phase) (s : State) : hostPorts (afterBufferOp p s) = hostPorts s := by
  unfold afterBufferOp
  split <;> rfl

theorem pushLoopTest_hostPorts (s : State) : hostPorts (pushLoopTest s) = hostPorts s := by
  obtain ⟨_, e⟩ | ⟨_, e⟩ := pushLoopTest_cases s <;> rw [e] <;> rfl

theorem pushConsume_hostPorts (d : DemodRsp) (s : State) : hostPorts (pushConsume d s) = hostPorts s := by
  obtain ⟨_, e⟩ | ⟨_, ⟨_, e⟩ | ⟨_, e⟩ | ⟨_, e⟩⟩ := pushConsume_cases d s <;> rw [e] <;> rfl

theorem stepUnsynced_hostPorts (d : DemodRsp) (s : State) : hostPorts (stepUnsynced d s) = hostPorts s := by
  unfold stepUnsynced
  split
  · dsimp only
    split <;> rfl
  · rfl

theorem fsmStep_hostPorts (d : DemodRsp) (s : State) : hostPorts (fsmStep d s) = hostPorts s := by
  unfold fsmStep
  split
  · exact stepUnsynced_hostPorts d s
  · obtain ⟨_, e⟩ | ⟨_, _, e⟩ | ⟨_, _, e⟩ := stepWaitFirst_cases d s <;> rw [e] <;> rfl
  · obtain ⟨_, e⟩ | ⟨_, _, e⟩ | ⟨_, _, e⟩ := stepWaitSecond_cases d s <;> rw [e] <;> rfl

theorem pushDrain_hostPorts (s : State) : hostPorts (pushDrain s) = hostPorts s := by
  unfold pushDrain
  split
  · dsimp only
    split <;> rfl
  · split <;> rfl

theorem demodInitAnswer_hostPorts (ok : Bool) (s : State) : hostPorts (demodInitAnswer ok s) = hostPorts s := by
  cases ok <;> rfl

theorem decInitAnswer_hostPorts (ok : Bool) (s : State) : hostPorts (decInitAnswer ok s) = hostPorts s := by
  cases ok <;> rfl

theorem decDecodeIssue_hostPorts (bytes : List Byte) (s : State) :
    hostPorts (decDecodeIssue bytes s) = hostPorts s := by
  unfold decDecodeIssue
  split <;> rfl

theorem finishFrame_hostPorts (audio : Option (List Sample)) (d : DemodRsp) (s : State) :
    hostPorts (finishFrame audio d s) = hostPorts s := by
  unfold finishFrame
  split
  · rfl
  · split
    · dsimp only
      split <;> rfl
    · rfl

/-- What a delivery does to the two ports and the phase (rule R200). -/
def Delivers (s t : State) : Prop :=
  ∃ rsp, s.phase = .respond rsp ∧ t.phase = .idle ∧ t.cmdIn = s.cmdIn.tail ∧ t.hostOut = s.hostOut ++ [rsp]

/-- A move delivers the settled response, or leaves both ports as they are. -/
theorem Moves.hostPorts_cases {s t : State} (hm : Moves s t) :
    hostPorts t = hostPorts s ∨ Delivers s t := by
  cases hm with
  | deliver rsp hp => exact .inr ⟨rsp, hp, rfl, rfl, rfl⟩
  | check _ _ => exact .inl (createCheck_hostPorts s)
  | accept p _ _ => exact .inl (pushAccept_hostPorts s)
  | append p _ _ => exact .inl (afterBufferOp_hostPorts .pLoopTest _)
  | loopTest p _ _ => exact .inl (pushLoopTest_hostPorts s)
  | consume p d _ _ => exact .inl (pushConsume_hostPorts d s)
  | fsm p d _ _ => exact .inl (fsmStep_hostPorts d s)
  | drain p _ _ => exact .inl (pushDrain_hostPorts s)
  | issueDecDecode d _ _ => exact .inl (decDecodeIssue_hostPorts _ s)
  | demodInit y rest ok _ _ _ _ => exact .inl (demodInitAnswer_hostPorts ok _)
  | decInit y rest ok _ _ _ _ => exact .inl (decInitAnswer_hostPorts ok _)
  | decDecode y rest audio d _ _ _ _ => exact .inl (finishFrame_hostPorts audio d _)
  | _ => exact .inl rfl

/-- Settles O55: taking an entry off the schedule touches neither port, and only a delivery does after it. -/
theorem commandHeldUntilResponse : Obligations.CommandHeldUntilResponse := by
  intro s t hstep hchanged
  have hne : hostPorts t ≠ hostPorts s := by simpa only [hostPorts, ne_eq, Prod.mk.injEq, not_and_or] using hchanged
  obtain ⟨u, rfl | ⟨sched, rfl⟩, hm⟩ := step_moves hstep
  · exact hm.hostPorts_cases.resolve_left hne
  · exact hm.hostPorts_cases.resolve_left hne

end Sys2Proof.Machine
end

section
/-! PROOF. The status port (rules R230 to R243). Every READ answers the register map's words at once, and a reader's
move is one such answer: the words of the request that waits, or the single word 0 for a word that is no request. -/

namespace Sys2Proof.Machine

/-! ### The reads (rules R231 to R242) -/

theorem lockWord_eq_registerValue (s : State) : lockWord s.snap = registerValue s 0x04 := rfl

theorem snrWord_eq_registerValue (s : State) : snrWord s.snap = registerValue s 0x05 := rfl

/-- The symbols stand in the map from address 0x10 on (rules R81 and R240). -/
theorem symWord_eq_registerValue (s : State) {k : Nat} (hk : k < s.cfg.nSym) :
    symWord s.snap k = registerValue s (0x10 + k) := by
  rw [registerValue_of_le _ (by omega), if_pos (by omega), Nat.add_sub_cancel_left]

/-- The map holds 0 at every reserved address (rules R81 and R82). -/
theorem registerValue_of_reserved (s : State) {addr : BitVec 8} (h : (Instr.readReserved addr).WellFormed s.cfg) :
    registerValue s addr.toNat = 0#32 := by
  simp only [Instr.WellFormed, Instr.wellFormed, reservedAddr, Bool.or_eq_true, Bool.and_eq_true,
    decide_eq_true_eq] at h
  rw [registerValue_of_le _ (by omega), if_neg (by omega)]

/-- The record of READ_SNAPSHOT, its derived words read from the map (rule R242). -/
theorem snapshotRecord_eq_registerValues (s : State) :
    snapshotRecord s.snap =
      [s.snap.seq, registerValue s 0x01, registerValue s 0x02, registerValue s 0x04, registerValue s 0x05,
        s.snap.toff, s.snap.foff, s.snap.clkoff] ++ s.snap.sym := by
  rw [← syncWord_eq_registerValue, ← fsmWord_eq_registerValue, ← lockWord_eq_registerValue,
    ← snrWord_eq_registerValue, snapshotRecord]

/-- Settles O40: the named registers are the first ten addresses of the map, and the other reads answer theirs. -/
theorem readsComplete : Obligations.ReadsComplete := by
  intro s
  have hnamed := fun k (hk : k < 10) => exec_readWordAt_named s hk
  refine ⟨hnamed 0 (by decide), hnamed 1 (by decide), hnamed 2 (by decide), hnamed 3 (by decide),
    hnamed 4 (by decide), hnamed 5 (by decide), hnamed 6 (by decide), hnamed 7 (by decide), hnamed 8 (by decide),
    hnamed 9 (by decide), fun k hk => ?_, fun addr haddr => ?_, ?_⟩
  · rw [← symWord_eq_registerValue s hk]
    rfl
  · rw [registerValue_of_reserved s haddr]
    rfl
  · rw [← snapshotRecord_eq_registerValues]
    rfl

/-! ### A reader's move (rules R80, R230 and R243) -/

/-- A READ_WORD's header is its address as a number (rule R80). -/
theorem readHeader_toNat (addr : BitVec 8) : (readHeader addr).toNat = addr.toNat :=
  (BitVec.toNat_append 0#24 addr).trans (by simp)

/-- The word of a decoded status request is one that rule R80 allows. -/
theorem validStatusWord_of_statusInstr {c : Config} {w : Word} {i : Instr} (h : statusInstr c w = .ok i) :
    ValidStatusWord w := by
  simp only [statusInstr, decode, decodeStatus] at h
  split_ifs at h with hpayload hread hmbz hsnapshot hmbz haddr
  · have hheader := readHeader_toNat (statusAddr w)
    rw [readHeader_eq_of_fields hread (not_not.mp hmbz)] at hheader
    have hlt := (statusAddr w).isLt
    exact .inl ⟨by omega, by omega⟩
  · exact .inr (snapshotHeader_eq_of_fields hsnapshot (not_not.mp hmbz) (not_not.mp haddr)).symm

/-- With no request waiting a reader's move does nothing. -/
theorem readerStep_of_quiet {s : State} (hw : s.statusIn = []) : readerStep s = .next s := by
  simp only [readerStep, hw]

/-- A waiting word is answered, an invalid one by the single word 0. -/
theorem readerStep_of_waiting {s : State} {w : Word} {rest : List Word} (hw : s.statusIn = w :: rest) :
    ∃ ws, readerStep s = .next (answerStatus ws s) ∧ (¬ ValidStatusWord w → ws = [0#32]) := by
  cases hi : statusInstr s.cfg w with
  | ok i =>
    obtain ⟨ws, hexec⟩ := exec_of_statusInstr hi s
    exact ⟨ws, (readerStep_eq_exec hw hi).trans hexec, fun hinvalid =>
      absurd (validStatusWord_of_statusInstr hi) hinvalid⟩
  | error e =>
    refine ⟨[0#32], ?_, fun _ => rfl⟩
    simp only [readerStep, hw, hi, invalidStatus]

/-- Settles O42: with no word waiting nothing happens, and an answer touches only the status port. -/
theorem statusReadsChangeNothing : Obligations.StatusReadsChangeNothing := by
  intro s sched hsched
  cases hin : s.statusIn with
  | nil =>
    refine ⟨_, (step_of_reader hsched).trans (readerStep_of_quiet hin), ?_, fun _ _ h => by cases h⟩
    rw [List.tail_nil, ← hin]
  | cons w rest =>
    obtain ⟨ws, hstep, hinvalid⟩ := readerStep_of_waiting (s := { s with schedule := sched }) hin
    refine ⟨_, (step_of_reader hsched).trans hstep, ?_, fun w' rest' heq hw' => ?_⟩
    · rw [answerStatus, hin]
    · cases heq
      rw [answerStatus_statusOut, hinvalid hw']

end Sys2Proof.Machine
end

section
/-! PROOF. InternalFault (rules R104, R151 and R262): the state it ends the command in is written once for any check
number, and each of the three checks is the exact condition under which its phase's step raises it. -/

namespace Sys2Proof.Machine

/-! ### The state InternalFault ends in (rule R262) -/

/-- INTERNAL_FAULT's word is code `0x08` with the check's number in field B (rules R76 and R262). -/
theorem internalFault_eq (k : BitVec 8) (s : State) : internalFault k s =
    { s with sess := .failed, phase := .respond { word := 0x08#8 ++ 0#8 ++ 0#8 ++ k, payload := [] } } := rfl

/-! ### When a check fails (rules R104, R151 and R262) -/

/-- Check 1 fails on a consume past the occupancy. -/
theorem pushConsume_of_lt (d : DemodRsp) {s : State} (h : s.inBuf.occ < s.r) :
    pushConsume d s = internalFault 1#8 s := by
  obtain ⟨-, e⟩ | ⟨hle, -⟩ := pushConsume_cases d s
  · exact e
  · omega

/-- Check 2 fails when either buffer holds more than its capacity. -/
theorem occupancyOk_eq_false_iff {s : State} :
    occupancyOk s = false ↔ s.inBuf.occ > s.cfg.inCap ∨ s.outBuf.occ > s.cfg.outCap := by
  simp only [occupancyOk, Bool.and_eq_false_iff, decide_eq_false_iff_not, Nat.not_le]

/-- Stopping after a buffer operation when check 2 fails: the operation's effect stands. -/
theorem afterBufferOp_fault {s : State} (p : Phase) (h : occupancyOk s = false) :
    afterBufferOp p s = internalFault 2#8 s := by
  rw [afterBufferOp, if_neg (Bool.eq_false_iff.mp h)]

/-- Check 3 fails when the frame's `2*B` bits are no `NBYTES` whole bytes. -/
theorem packFits_eq_false_iff {c : Config} : packFits c = false ↔ 2 * c.b ≠ 8 * c.nbytes :=
  beq_eq_false_iff_ne

/-- A failed check 3 stops the decoder request before it goes out. -/
theorem decDecodeIssue_of_misfit (bytes : List Byte) {s : State} (h : packFits s.cfg = false) :
    decDecodeIssue bytes s = internalFault 3#8 s := by
  rw [decDecodeIssue, if_neg (Bool.eq_false_iff.mp h)]

/-! ### The three checks end the command -/

/-- Settles O34: each check fails in its phase's step, and `internalFault_eq` writes out the state it leaves. -/
theorem internalFaultEndsCommand : Obligations.InternalFaultEndsCommand := by
  refine fun p s => ⟨fun d hp hlt => ?check1, fun hp hover => ?check2, fun d bytes _ ha hmisfit => ?check3⟩
  case check1 =>
    have hexec : exec (.push p) s = .next (pushConsume d s) := by simp only [exec, execPush, hp]
    rw [hexec, pushConsume_of_lt d hlt, internalFault_eq]
    rfl
  case check2 =>
    have hexec : exec (.push p) s = .next (pushAppend p s) := by simp only [exec, execPush, hp]
    have hocc : occupancyOk { s with inBuf := (ringAppend s.cfg.inCap s.inBuf p).2 } = false :=
      occupancyOk_eq_false_iff.mpr hover
    rw [hexec, pushAppend, afterBufferOp_fault _ hocc, internalFault_eq]
    rfl
  case check3 =>
    have hexec : exec (.decDecode bytes) s = .next (decDecodeIssue bytes s) := if_pos ha
    rw [hexec, decDecodeIssue_of_misfit bytes (packFits_eq_false_iff.mpr hmisfit), internalFault_eq]
    rfl

end Sys2Proof.Machine
end

section
/-! PROOF. Power-on reset (rules R290 and R291), and the adapter ports at their two edges: an answer that never comes
(rules R304 and R305) and an answer of the wrong length (rule R306). The five adapter requests are one blocking call,
`adapterCall`, with their own answers, so what such a call does is proved once. -/

namespace Sys2Proof.Machine

/-! ### Power-on reset (rules R290 and R291) -/

theorem ringContents_empty (cap : Nat) : ringContents cap (Ring.empty cap) = [] := rfl

/-- Settles O14: `State.resetWith` element by element, its two buffers empty. -/
theorem powerOnValues : Obligations.PowerOnValues :=
  fun c => ⟨rfl, rfl, rfl, rfl, ringContents_empty c.inCap, ringContents_empty c.outCap, rfl, rfl, rfl, rfl, rfl, rfl,
    rfl, rfl⟩

/-- No symbol is published before the first iteration. -/
theorem symWord_zero (c : Config) (k : Nat) : symWord (Snapshot.zero c) k = 0#32 := by
  rw [symWord, List.getD_eq_getElem?_getD]
  exact List.getElem?_getD_replicate_default_eq _ _ _

/-- After power-on the register map holds 0 at every address but NSYM's. -/
theorem registerValue_resetWith_of_ne (c : Config) {addr : Nat} (h : addr ≠ 9) :
    registerValue (State.resetWith c) addr = 0#32 := by
  by_cases hnamed : addr < 9
  · interval_cases addr <;> rfl
  · rw [registerValue_of_le _ (by omega)]
    split
    · exact symWord_zero c _
    · rfl

theorem registerValue_resetWith (c : Config) (addr : BitVec 8) :
    registerValue (State.resetWith c) addr.toNat = if addr = 0x09#8 then BitVec.ofNat 32 c.nSym else 0#32 := by
  split
  · subst addr
    rfl
  · exact registerValue_resetWith_of_ne c (by bv_omega)

/-- Settles O15: the READ_WORD of an address answers the map's value there, and no request waits at power-on. -/
theorem powerOnStatusReads : Obligations.PowerOnStatusReads := by
  intro c addr i hi
  cases (decodeStatus_readHeader c addr).symm.trans hi
  have hread := exec_readWordAt (State.resetWith c) addr
  rw [registerValue_resetWith] at hread
  exact hread

/-! ### The adapter requests as one blocking call (rules R304 to R306) -/

/-- A blocking adapter call: `issued` once the request is out; then the block waits while `queue` is empty, takes the
first answer as `parse` reads it, and refuses one that `parse` cannot read. -/
def adapterCall {α : Type} (s issued : State) (queue : List Reply) (parse : Reply → Option α)
    (taken : α → List Reply → State) : Host.Outcome State Fault Refusal :=
  if s.awaiting = false then .next issued
  else
    match queue with
    | [] => .next s
    | y :: rest =>
      match parse y with
      | none => .refused .malformedAdapterResponse
      | some a => .next (taken a rest)

theorem exec_demodInit_eq_call (s : State) : exec .demodInit s =
    adapterCall s (issue .demodInit s) s.demodIn parseInit fun ok rest => demodInitAnswer ok (takeDemod rest s) := by
  refine if_congr Iff.rfl rfl ?_
  cases s.demodIn with
  | nil => rfl
  | cons y rest => cases hy : parseInit y <;> simp only [hy]

theorem exec_demodReq_eq_call (n : BitVec 16) (xs : List Sample) (s : State) : exec (.demodReq n xs) s =
    adapterCall s (issue (.demodReq n xs) s) s.demodIn (parseDemod s.cfg) fun d rest =>
      demodReqAnswer d (takeDemod rest s) := by
  refine if_congr Iff.rfl rfl ?_
  cases s.demodIn with
  | nil => rfl
  | cons y rest => cases hy : parseDemod s.cfg y <;> simp only [hy]

theorem exec_decInit_eq_call (s : State) : exec .decInit s =
    adapterCall s (issue .decInit s) s.decIn parseInit fun ok rest => decInitAnswer ok (takeDec rest s) := by
  refine if_congr Iff.rfl rfl ?_
  cases s.decIn with
  | nil => rfl
  | cons y rest => cases hy : parseInit y <;> simp only [hy]

theorem exec_decRepair_eq_call (bits : List Bool) (s : State) : exec (.decRepair bits) s =
    adapterCall s (issue (.decRepair bits) s) s.decIn (parseRepair s.cfg) fun repaired rest =>
      decRepairAnswer repaired (takeDec rest s) := by
  refine if_congr Iff.rfl rfl ?_
  cases s.decIn with
  | nil => rfl
  | cons y rest => cases hy : parseRepair s.cfg y <;> simp only [hy]

theorem exec_decDecode_eq_call (bytes : List Byte) (s : State) : exec (.decDecode bytes) s =
    adapterCall s (decDecodeIssue bytes s) s.decIn (parseDecode s.cfg) fun audio rest =>
      decDecodeAnswer audio (takeDec rest s) := by
  refine if_congr Iff.rfl rfl ?_
  cases s.decIn with
  | nil => rfl
  | cons y rest => cases hy : parseDecode s.cfg y <;> simp only [hy]

section Call

variable {α : Type} {s issued : State} {queue : List Reply} {parse : Reply → Option α}
  {taken : α → List Reply → State}

/-- With the request out and no answer there, the call waits (rule R305). -/
theorem adapterCall_of_silent (ha : s.awaiting = true) (hq : queue = []) :
    adapterCall s issued queue parse taken = .next s := by
  simp only [adapterCall, ha, hq, Bool.true_eq_false, if_false]

/-- A call is refused exactly when the answer it takes is not read (rule R306). -/
theorem adapterCall_eq_refused_iff {malformed : Reply → Prop} (hparse : ∀ y, parse y = none ↔ malformed y)
    (r : Refusal) : adapterCall s issued queue parse taken = .refused r ↔
      r = .malformedAdapterResponse ∧ s.awaiting = true ∧ ∃ y rest, queue = y :: rest ∧ malformed y := by
  cases ha : s.awaiting with
  | false => simp [adapterCall, ha]
  | true =>
    cases queue with
    | nil => simp [adapterCall, ha]
    | cons y rest =>
      cases hy : parse y with
      | none => simp [adapterCall, ha, hy, (hparse y).mp hy, eq_comm]
      | some a =>
        have hgood : ¬ malformed y := fun hbad => by simp [(hparse y).mpr hbad] at hy
        simp [adapterCall, ha, hy, hgood]

end Call

/-! ### An adapter that never answers (rules R304 and R305) -/

/-- A machine whose step leaves a state as it is stays there for any number of steps. -/
theorem run_of_step_self {M : Host.Core} {s : M.State} (h : M.step s = .next s) (n : Nat) : M.run n s = .next s := by
  induction n with
  | zero => rfl
  | succ n ih => exact run_succ_eq_next.mpr ⟨s, h, ih⟩

/-- Settles O27: in each waiting phase the sequencer runs a request that waits, so one step leaves the block as it is,
and any number of steps does. -/
theorem silentAdapterStallsBlock : Obligations.SilentAdapterStallsBlock := by
  intro s n ha hstatus hsched hsilent
  have hwaits : ∃ i, adapterInstr s = some i ∧ exec i s = .next s := by
    obtain ⟨hp | hp, hq⟩ | ⟨hp | ⟨d, hp⟩ | ⟨d, hp⟩, hq⟩ := hsilent
    · exact ⟨_, by rw [adapterInstr, hp], (exec_demodInit_eq_call s).trans (adapterCall_of_silent ha hq)⟩
    · exact ⟨_, by rw [adapterInstr, hp], (exec_demodReq_eq_call _ _ s).trans (adapterCall_of_silent ha hq)⟩
    · exact ⟨_, by rw [adapterInstr, hp], (exec_decInit_eq_call s).trans (adapterCall_of_silent ha hq)⟩
    · exact ⟨_, by rw [adapterInstr, hp], (exec_decRepair_eq_call _ s).trans (adapterCall_of_silent ha hq)⟩
    · exact ⟨_, by rw [adapterInstr, hp], (exec_decDecode_eq_call _ s).trans (adapterCall_of_silent ha hq)⟩
  obtain ⟨i, hi, hexec⟩ := hwaits
  have hstep : step s = .next s := by
    rw [step_of_quiet hsched hstatus, sequencerStep_eq_adapter hi, hexec]
  exact run_of_step_self (M := Sys2Proof.core) hstep n

/-! ### Answers of the wrong length (rule R306) -/

/-- An initialisation's answer is one word (rule R87). -/
theorem parseInit_eq_none_iff (y : Reply) : parseInit y = none ↔ y.words.length ≠ 1 ∨ y.samples ≠ [] := by
  unfold parseInit
  split
  next w hw hx => simp [hw, hx]
  next hne =>
    simp only [true_iff, ← not_and_or, List.length_eq_one_iff]
    rintro ⟨⟨w, hw⟩, hx⟩
    exact hne w hw hx

/-- The answer to DEMOD_REQ is its five fixed words, the symbols and the bits (rule R86). -/
theorem parseDemod_eq_none_iff (c : Config) (y : Reply) :
    parseDemod c y = none ↔ y.words.length ≠ 5 + c.nSym + (c.b + 31) / 32 ∨ y.samples ≠ [] := by
  simp only [parseDemod, ite_eq_right_iff, reduceCtorEq, imp_false, not_and_or]
  rfl

/-- The answer to DEC_REPAIR is the words of `2*B` bits (rule R88). -/
theorem parseRepair_eq_none_iff (c : Config) (y : Reply) :
    parseRepair c y = none ↔ y.words.length ≠ (2 * c.b + 31) / 32 ∨ y.samples ≠ [] := by
  simp only [parseRepair, ite_eq_right_iff, reduceCtorEq, imp_false, not_and_or]
  rfl

/-- The answer to DEC_DECODE is one word, with `FRAME_OUT` samples when its `ok` is 1 (rule R89). -/
theorem parseDecode_eq_none_iff (c : Config) (y : Reply) : parseDecode c y = none ↔
    y.words.length ≠ 1 ∨ (y.words.getD 0 0#32).getLsbD 0 = true ∧ y.samples.length ≠ c.frameOut := by
  unfold parseDecode
  split
  next w hw =>
    have hok : (y.words.getD 0 0#32).getLsbD 0 = replyBit0 w := by
      rw [hw]
      rfl
    rw [hok]
    cases replyBit0 w <;> simp [hw]
  next hne =>
    have hlen : y.words.length ≠ 1 := fun h => by
      obtain ⟨w, hw⟩ := List.length_eq_one_iff.mp h
      exact hne w hw
    simp [hlen]

theorem execCreate_eq_next (s : State) : ∃ t, execCreate s = .next t := by
  unfold execCreate
  split <;> exact ⟨_, rfl⟩

theorem execPush_eq_next (p : List Sample) (s : State) : ∃ t, execPush p s = .next t := by
  unfold execPush
  split <;> exact ⟨_, rfl⟩

/-- Every transaction of the command port and of the status port goes on, in any state. -/
theorem exec_eq_next_of_port {i : Instr} (h : i.port = .command ∨ i.port = .status) (s : State) :
    ∃ t, exec i s = .next t := by
  cases i with
  | create => exact execCreate_eq_next s
  | push p => exact execPush_eq_next p s
  | demodInit | demodReq | decInit | decRepair | decDecode => simp [Instr.port] at h
  | _ => exact ⟨_, rfl⟩

/-- Settles O28: each adapter request is a call, refused exactly on an answer that its parser does not read, and the
transactions of the other two ports always go on. -/
theorem onlyMalformedResponsesRefused : Obligations.OnlyMalformedResponsesRefused := by
  intro s
  refine ⟨fun r => ?demodInit, fun r n xs => ?demodReq, fun r => ?decInit, fun r bits => ?decRepair,
    fun r bytes => ?decDecode, fun r i hport => ?others⟩
  case demodInit =>
    rw [exec_demodInit_eq_call]
    exact adapterCall_eq_refused_iff parseInit_eq_none_iff r
  case demodReq =>
    rw [exec_demodReq_eq_call]
    exact adapterCall_eq_refused_iff (parseDemod_eq_none_iff s.cfg) r
  case decInit =>
    rw [exec_decInit_eq_call]
    exact adapterCall_eq_refused_iff parseInit_eq_none_iff r
  case decRepair =>
    rw [exec_decRepair_eq_call]
    exact adapterCall_eq_refused_iff (parseRepair_eq_none_iff s.cfg) r
  case decDecode =>
    rw [exec_decDecode_eq_call]
    exact adapterCall_eq_refused_iff (parseDecode_eq_none_iff s.cfg) r
  case others =>
    obtain ⟨t, ht⟩ := exec_eq_next_of_port hport s
    simp [ht]

end Sys2Proof.Machine
end
